-- ==== Sys2Proof/Word.lean ====
section
/-! DEFINITION. The word types of the core (spec/20_memory.md R200, spec/10_state.md R40) and their plainest arithmetic. -/

namespace Sys2Proof

/-- A 64-bit register or address (10_state R40, R44). -/
abbrev Word := BitVec 64

/-- A byte of memory (20_memory R200: "A byte is 8 bits"). -/
abbrev Byte := BitVec 8

/-- A 16-bit instruction parcel (30_encoding R300). -/
abbrev Parcel := BitVec 16

/-- A five-bit register number (30_encoding R302). -/
abbrev Reg := BitVec 5

/-- A three-bit register number of the compressed formats, naming register `8 + r` (30_encoding R321). -/
abbrev CReg := BitVec 3

/-- A rounding-mode field `inst[14:12]` (30_encoding R303). -/
abbrev RmField := BitVec 3

end Sys2Proof
end

