-- ==== Sys2Proof/Syntax.lean ====
section
/-! DEFINITION. The instruction set: one constructor per row of spec/opcode_table.json, in the table's order.
A constructor holds every bit its encoding leaves free, so that an instruction determines its word (Decode.lean: `encode`).
Immediates stand in their natural bit order, without the low zero bits that 30_encoding R304 and file 49 make implicit. -/

namespace Sys2Proof

inductive Instr where
  -- RV64I computation (spec/40_rv64i_compute.md)
  /-- R401: `LUI`. -/
  | lui (rd : Reg) (imm : BitVec 20)
  /-- R402: `AUIPC`. -/
  | auipc (rd : Reg) (imm : BitVec 20)
  /-- R403: `ADDI`. -/
  | addi (rd rs1 : Reg) (imm : BitVec 12)
  /-- R404: `SLTI`. -/
  | slti (rd rs1 : Reg) (imm : BitVec 12)
  /-- R405: `SLTIU`. -/
  | sltiu (rd rs1 : Reg) (imm : BitVec 12)
  /-- R406: `XORI`. -/
  | xori (rd rs1 : Reg) (imm : BitVec 12)
  /-- R407: `ORI`. -/
  | ori (rd rs1 : Reg) (imm : BitVec 12)
  /-- R408: `ANDI`. -/
  | andi (rd rs1 : Reg) (imm : BitVec 12)
  /-- R409: `SLLI`. -/
  | slli (rd rs1 : Reg) (shamt : BitVec 6)
  /-- R410: `SRLI`. -/
  | srli (rd rs1 : Reg) (shamt : BitVec 6)
  /-- R411: `SRAI`. -/
  | srai (rd rs1 : Reg) (shamt : BitVec 6)
  /-- R412: `ADD`. -/
  | add (rd rs1 rs2 : Reg)
  /-- R413: `SUB`. -/
  | sub (rd rs1 rs2 : Reg)
  /-- R414: `SLL`. -/
  | sll (rd rs1 rs2 : Reg)
  /-- R415: `SLT`. -/
  | slt (rd rs1 rs2 : Reg)
  /-- R416: `SLTU`. -/
  | sltu (rd rs1 rs2 : Reg)
  /-- R417: `XOR`. -/
  | xor (rd rs1 rs2 : Reg)
  /-- R418: `SRL`. -/
  | srl (rd rs1 rs2 : Reg)
  /-- R419: `SRA`. -/
  | sra (rd rs1 rs2 : Reg)
  /-- R420: `OR`. -/
  | or (rd rs1 rs2 : Reg)
  /-- R421: `AND`. -/
  | and (rd rs1 rs2 : Reg)
  /-- R422: `ADDIW`. -/
  | addiw (rd rs1 : Reg) (imm : BitVec 12)
  /-- R423: `SLLIW`. -/
  | slliw (rd rs1 : Reg) (shamt : BitVec 5)
  /-- R424: `SRLIW`. -/
  | srliw (rd rs1 : Reg) (shamt : BitVec 5)
  /-- R425: `SRAIW`. -/
  | sraiw (rd rs1 : Reg) (shamt : BitVec 5)
  /-- R426: `ADDW`. -/
  | addw (rd rs1 rs2 : Reg)
  /-- R427: `SUBW`. -/
  | subw (rd rs1 rs2 : Reg)
  /-- R428: `SLLW`. -/
  | sllw (rd rs1 rs2 : Reg)
  /-- R429: `SRLW`. -/
  | srlw (rd rs1 rs2 : Reg)
  /-- R430: `SRAW`. -/
  | sraw (rd rs1 rs2 : Reg)
  -- Control transfer (spec/41_rv64i_control_transfer.md)
  /-- R451: `JAL`. -/
  | jal (rd : Reg) (imm : BitVec 20)
  /-- R452: `JALR`. -/
  | jalr (rd rs1 : Reg) (imm : BitVec 12)
  /-- R453: `BEQ`. -/
  | beq (rs1 rs2 : Reg) (imm : BitVec 12)
  /-- R454: `BNE`. -/
  | bne (rs1 rs2 : Reg) (imm : BitVec 12)
  /-- R455: `BLT`. -/
  | blt (rs1 rs2 : Reg) (imm : BitVec 12)
  /-- R456: `BGE`. -/
  | bge (rs1 rs2 : Reg) (imm : BitVec 12)
  /-- R457: `BLTU`. -/
  | bltu (rs1 rs2 : Reg) (imm : BitVec 12)
  /-- R458: `BGEU`. -/
  | bgeu (rs1 rs2 : Reg) (imm : BitVec 12)
  -- Loads, stores and FENCE (spec/42_rv64i_load_store_fence.md)
  /-- R471: `LB`. -/
  | lb (rd rs1 : Reg) (imm : BitVec 12)
  /-- R472: `LH`. -/
  | lh (rd rs1 : Reg) (imm : BitVec 12)
  /-- R473: `LW`. -/
  | lw (rd rs1 : Reg) (imm : BitVec 12)
  /-- R474: `LBU`. -/
  | lbu (rd rs1 : Reg) (imm : BitVec 12)
  /-- R475: `LHU`. -/
  | lhu (rd rs1 : Reg) (imm : BitVec 12)
  /-- R476: `LWU`. -/
  | lwu (rd rs1 : Reg) (imm : BitVec 12)
  /-- R477: `LD`. -/
  | ld (rd rs1 : Reg) (imm : BitVec 12)
  /-- R478: `SB`. -/
  | sb (rs1 rs2 : Reg) (imm : BitVec 12)
  /-- R479: `SH`. -/
  | sh (rs1 rs2 : Reg) (imm : BitVec 12)
  /-- R480: `SW`. -/
  | sw (rs1 rs2 : Reg) (imm : BitVec 12)
  /-- R481: `SD`. -/
  | sd (rs1 rs2 : Reg) (imm : BitVec 12)
  /-- R489: `FENCE`. -/
  | fence (fm pred succ : BitVec 4) (rs1 rd : Reg)
  -- Multiply and divide (spec/43_m_muldiv.md)
  /-- R501: `MUL`. -/
  | mul (rd rs1 rs2 : Reg)
  /-- R502: `MULH`. -/
  | mulh (rd rs1 rs2 : Reg)
  /-- R503: `MULHSU`. -/
  | mulhsu (rd rs1 rs2 : Reg)
  /-- R504: `MULHU`. -/
  | mulhu (rd rs1 rs2 : Reg)
  /-- R505: `DIV`. -/
  | div (rd rs1 rs2 : Reg)
  /-- R506: `DIVU`. -/
  | divu (rd rs1 rs2 : Reg)
  /-- R507: `REM`. -/
  | rem (rd rs1 rs2 : Reg)
  /-- R508: `REMU`. -/
  | remu (rd rs1 rs2 : Reg)
  /-- R509: `MULW`. -/
  | mulw (rd rs1 rs2 : Reg)
  /-- R510: `DIVW`. -/
  | divw (rd rs1 rs2 : Reg)
  /-- R511: `DIVUW`. -/
  | divuw (rd rs1 rs2 : Reg)
  /-- R512: `REMW`. -/
  | remw (rd rs1 rs2 : Reg)
  /-- R513: `REMUW`. -/
  | remuw (rd rs1 rs2 : Reg)
  -- Atomics (spec/44_a_atomics.md)
  /-- R526: `LR.W`. -/
  | lrW (rd rs1 : Reg) (aq rl : BitVec 1)
  /-- R527: `SC.W`. -/
  | scW (rd rs1 rs2 : Reg) (aq rl : BitVec 1)
  /-- R528: `AMOSWAP.W`. -/
  | amoswapW (rd rs1 rs2 : Reg) (aq rl : BitVec 1)
  /-- R529: `AMOADD.W`. -/
  | amoaddW (rd rs1 rs2 : Reg) (aq rl : BitVec 1)
  /-- R530: `AMOXOR.W`. -/
  | amoxorW (rd rs1 rs2 : Reg) (aq rl : BitVec 1)
  /-- R531: `AMOAND.W`. -/
  | amoandW (rd rs1 rs2 : Reg) (aq rl : BitVec 1)
  /-- R532: `AMOOR.W`. -/
  | amoorW (rd rs1 rs2 : Reg) (aq rl : BitVec 1)
  /-- R533: `AMOMIN.W`. -/
  | amominW (rd rs1 rs2 : Reg) (aq rl : BitVec 1)
  /-- R534: `AMOMAX.W`. -/
  | amomaxW (rd rs1 rs2 : Reg) (aq rl : BitVec 1)
  /-- R535: `AMOMINU.W`. -/
  | amominuW (rd rs1 rs2 : Reg) (aq rl : BitVec 1)
  /-- R536: `AMOMAXU.W`. -/
  | amomaxuW (rd rs1 rs2 : Reg) (aq rl : BitVec 1)
  /-- R537: `LR.D`. -/
  | lrD (rd rs1 : Reg) (aq rl : BitVec 1)
  /-- R538: `SC.D`. -/
  | scD (rd rs1 rs2 : Reg) (aq rl : BitVec 1)
  /-- R539: `AMOSWAP.D`. -/
  | amoswapD (rd rs1 rs2 : Reg) (aq rl : BitVec 1)
  /-- R540: `AMOADD.D`. -/
  | amoaddD (rd rs1 rs2 : Reg) (aq rl : BitVec 1)
  /-- R541: `AMOXOR.D`. -/
  | amoxorD (rd rs1 rs2 : Reg) (aq rl : BitVec 1)
  /-- R542: `AMOAND.D`. -/
  | amoandD (rd rs1 rs2 : Reg) (aq rl : BitVec 1)
  /-- R543: `AMOOR.D`. -/
  | amoorD (rd rs1 rs2 : Reg) (aq rl : BitVec 1)
  /-- R544: `AMOMIN.D`. -/
  | amominD (rd rs1 rs2 : Reg) (aq rl : BitVec 1)
  /-- R545: `AMOMAX.D`. -/
  | amomaxD (rd rs1 rs2 : Reg) (aq rl : BitVec 1)
  /-- R546: `AMOMINU.D`. -/
  | amominuD (rd rs1 rs2 : Reg) (aq rl : BitVec 1)
  /-- R547: `AMOMAXU.D`. -/
  | amomaxuD (rd rs1 rs2 : Reg) (aq rl : BitVec 1)
  -- Single-precision floating point (spec/45_f_single.md)
  /-- R560: `FLW`. -/
  | flw (rd rs1 : Reg) (imm : BitVec 12)
  /-- R561: `FSW`. -/
  | fsw (rs1 rs2 : Reg) (imm : BitVec 12)
  /-- R562: `FMADD.S`. -/
  | fmaddS (rd rs1 rs2 rs3 : Reg) (rm : RmField)
  /-- R563: `FMSUB.S`. -/
  | fmsubS (rd rs1 rs2 rs3 : Reg) (rm : RmField)
  /-- R564: `FNMSUB.S`. -/
  | fnmsubS (rd rs1 rs2 rs3 : Reg) (rm : RmField)
  /-- R565: `FNMADD.S`. -/
  | fnmaddS (rd rs1 rs2 rs3 : Reg) (rm : RmField)
  /-- R566: `FADD.S`. -/
  | faddS (rd rs1 rs2 : Reg) (rm : RmField)
  /-- R567: `FSUB.S`. -/
  | fsubS (rd rs1 rs2 : Reg) (rm : RmField)
  /-- R568: `FMUL.S`. -/
  | fmulS (rd rs1 rs2 : Reg) (rm : RmField)
  /-- R569: `FDIV.S`. -/
  | fdivS (rd rs1 rs2 : Reg) (rm : RmField)
  /-- R570: `FSQRT.S`. -/
  | fsqrtS (rd rs1 : Reg) (rm : RmField)
  /-- R571: `FSGNJ.S`. -/
  | fsgnjS (rd rs1 rs2 : Reg)
  /-- R572: `FSGNJN.S`. -/
  | fsgnjnS (rd rs1 rs2 : Reg)
  /-- R573: `FSGNJX.S`. -/
  | fsgnjxS (rd rs1 rs2 : Reg)
  /-- R574: `FMIN.S`. -/
  | fminS (rd rs1 rs2 : Reg)
  /-- R575: `FMAX.S`. -/
  | fmaxS (rd rs1 rs2 : Reg)
  /-- R576: `FCVT.W.S`. -/
  | fcvtWS (rd rs1 : Reg) (rm : RmField)
  /-- R577: `FCVT.WU.S`. -/
  | fcvtWUS (rd rs1 : Reg) (rm : RmField)
  /-- R578: `FMV.X.W`. -/
  | fmvXW (rd rs1 : Reg)
  /-- R579: `FEQ.S`. -/
  | feqS (rd rs1 rs2 : Reg)
  /-- R580: `FLT.S`. -/
  | fltS (rd rs1 rs2 : Reg)
  /-- R581: `FLE.S`. -/
  | fleS (rd rs1 rs2 : Reg)
  /-- R582: `FCLASS.S`. -/
  | fclassS (rd rs1 : Reg)
  /-- R583: `FCVT.S.W`. -/
  | fcvtSW (rd rs1 : Reg) (rm : RmField)
  /-- R584: `FCVT.S.WU`. -/
  | fcvtSWU (rd rs1 : Reg) (rm : RmField)
  /-- R585: `FMV.W.X`. -/
  | fmvWX (rd rs1 : Reg)
  /-- R586: `FCVT.L.S`. -/
  | fcvtLS (rd rs1 : Reg) (rm : RmField)
  /-- R587: `FCVT.LU.S`. -/
  | fcvtLUS (rd rs1 : Reg) (rm : RmField)
  /-- R588: `FCVT.S.L`. -/
  | fcvtSL (rd rs1 : Reg) (rm : RmField)
  /-- R589: `FCVT.S.LU`. -/
  | fcvtSLU (rd rs1 : Reg) (rm : RmField)
  -- Double-precision floating point (spec/46_d_double.md)
  /-- R610: `FLD`. -/
  | fld (rd rs1 : Reg) (imm : BitVec 12)
  /-- R611: `FSD`. -/
  | fsd (rs1 rs2 : Reg) (imm : BitVec 12)
  /-- R612: `FMADD.D`. -/
  | fmaddD (rd rs1 rs2 rs3 : Reg) (rm : RmField)
  /-- R613: `FMSUB.D`. -/
  | fmsubD (rd rs1 rs2 rs3 : Reg) (rm : RmField)
  /-- R614: `FNMSUB.D`. -/
  | fnmsubD (rd rs1 rs2 rs3 : Reg) (rm : RmField)
  /-- R615: `FNMADD.D`. -/
  | fnmaddD (rd rs1 rs2 rs3 : Reg) (rm : RmField)
  /-- R616: `FADD.D`. -/
  | faddD (rd rs1 rs2 : Reg) (rm : RmField)
  /-- R617: `FSUB.D`. -/
  | fsubD (rd rs1 rs2 : Reg) (rm : RmField)
  /-- R618: `FMUL.D`. -/
  | fmulD (rd rs1 rs2 : Reg) (rm : RmField)
  /-- R619: `FDIV.D`. -/
  | fdivD (rd rs1 rs2 : Reg) (rm : RmField)
  /-- R620: `FSQRT.D`. -/
  | fsqrtD (rd rs1 : Reg) (rm : RmField)
  /-- R621: `FSGNJ.D`. -/
  | fsgnjD (rd rs1 rs2 : Reg)
  /-- R622: `FSGNJN.D`. -/
  | fsgnjnD (rd rs1 rs2 : Reg)
  /-- R623: `FSGNJX.D`. -/
  | fsgnjxD (rd rs1 rs2 : Reg)
  /-- R624: `FMIN.D`. -/
  | fminD (rd rs1 rs2 : Reg)
  /-- R625: `FMAX.D`. -/
  | fmaxD (rd rs1 rs2 : Reg)
  /-- R626: `FCVT.S.D`. -/
  | fcvtSD (rd rs1 : Reg) (rm : RmField)
  /-- R627: `FCVT.D.S`. -/
  | fcvtDS (rd rs1 : Reg) (rm : RmField)
  /-- R628: `FEQ.D`. -/
  | feqD (rd rs1 rs2 : Reg)
  /-- R629: `FLT.D`. -/
  | fltD (rd rs1 rs2 : Reg)
  /-- R630: `FLE.D`. -/
  | fleD (rd rs1 rs2 : Reg)
  /-- R631: `FCLASS.D`. -/
  | fclassD (rd rs1 : Reg)
  /-- R632: `FCVT.W.D`. -/
  | fcvtWD (rd rs1 : Reg) (rm : RmField)
  /-- R633: `FCVT.WU.D`. -/
  | fcvtWUD (rd rs1 : Reg) (rm : RmField)
  /-- R634: `FCVT.D.W`. -/
  | fcvtDW (rd rs1 : Reg) (rm : RmField)
  /-- R635: `FCVT.D.WU`. -/
  | fcvtDWU (rd rs1 : Reg) (rm : RmField)
  /-- R636: `FCVT.L.D`. -/
  | fcvtLD (rd rs1 : Reg) (rm : RmField)
  /-- R637: `FCVT.LU.D`. -/
  | fcvtLUD (rd rs1 : Reg) (rm : RmField)
  /-- R638: `FMV.X.D`. -/
  | fmvXD (rd rs1 : Reg)
  /-- R639: `FCVT.D.L`. -/
  | fcvtDL (rd rs1 : Reg) (rm : RmField)
  /-- R640: `FCVT.D.LU`. -/
  | fcvtDLU (rd rs1 : Reg) (rm : RmField)
  /-- R641: `FMV.D.X`. -/
  | fmvDX (rd rs1 : Reg)
  -- CSR instructions and FENCE.I (spec/47_zicsr_zifencei.md)
  /-- R653: `CSRRW`. -/
  | csrrw (rd rs1 : Reg) (csr : BitVec 12)
  /-- R654: `CSRRS`. -/
  | csrrs (rd rs1 : Reg) (csr : BitVec 12)
  /-- R655: `CSRRC`. -/
  | csrrc (rd rs1 : Reg) (csr : BitVec 12)
  /-- R656: `CSRRWI`. -/
  | csrrwi (rd : Reg) (uimm : BitVec 5) (csr : BitVec 12)
  /-- R657: `CSRRSI`. -/
  | csrrsi (rd : Reg) (uimm : BitVec 5) (csr : BitVec 12)
  /-- R658: `CSRRCI`. -/
  | csrrci (rd : Reg) (uimm : BitVec 5) (csr : BitVec 12)
  /-- R662: `FENCE.I`. -/
  | fenceI (imm : BitVec 12) (rs1 rd : Reg)
  -- Privileged and system (spec/48_privileged_system.md)
  /-- R670: `ECALL`. -/
  | ecall
  /-- R671: `EBREAK`. -/
  | ebreak
  /-- R672: `MRET`. -/
  | mret
  /-- R673: `SRET`. -/
  | sret
  /-- R674: `WFI`. -/
  | wfi
  /-- R675: `SFENCE.VMA`. -/
  | sfenceVma (rs1 rs2 : Reg)
  -- Compressed (spec/49_c_compressed.md)
  /-- R701: `C.ADDI4SPN`. -/
  | cAddi4spn (rd : CReg) (nzuimm : BitVec 8)
  /-- R702: `C.FLD`. -/
  | cFld (rd rs1 : CReg) (uimm : BitVec 5)
  /-- R703: `C.LW`. -/
  | cLw (rd rs1 : CReg) (uimm : BitVec 5)
  /-- R704: `C.LD`. -/
  | cLd (rd rs1 : CReg) (uimm : BitVec 5)
  /-- R705: `C.FSD`. -/
  | cFsd (rs1 rs2 : CReg) (uimm : BitVec 5)
  /-- R706: `C.SW`. -/
  | cSw (rs1 rs2 : CReg) (uimm : BitVec 5)
  /-- R707: `C.SD`. -/
  | cSd (rs1 rs2 : CReg) (uimm : BitVec 5)
  /-- R708: `C.NOP`. -/
  | cNop (imm : BitVec 6)
  /-- R709: `C.ADDI`. -/
  | cAddi (rd : Reg) (imm : BitVec 6)
  /-- R710: `C.ADDIW`. -/
  | cAddiw (rd : Reg) (imm : BitVec 6)
  /-- R711: `C.LI`. -/
  | cLi (rd : Reg) (imm : BitVec 6)
  /-- R712: `C.ADDI16SP`. -/
  | cAddi16sp (nzimm : BitVec 6)
  /-- R713: `C.LUI`. -/
  | cLui (rd : Reg) (nzimm : BitVec 6)
  /-- R714: `C.SRLI`. -/
  | cSrli (rd : CReg) (shamt : BitVec 6)
  /-- R715: `C.SRAI`. -/
  | cSrai (rd : CReg) (shamt : BitVec 6)
  /-- R716: `C.ANDI`. -/
  | cAndi (rd : CReg) (imm : BitVec 6)
  /-- R717: `C.SUB`. -/
  | cSub (rd rs2 : CReg)
  /-- R718: `C.XOR`. -/
  | cXor (rd rs2 : CReg)
  /-- R719: `C.OR`. -/
  | cOr (rd rs2 : CReg)
  /-- R720: `C.AND`. -/
  | cAnd (rd rs2 : CReg)
  /-- R721: `C.SUBW`. -/
  | cSubw (rd rs2 : CReg)
  /-- R722: `C.ADDW`. -/
  | cAddw (rd rs2 : CReg)
  /-- R723: `C.J`. -/
  | cJ (imm : BitVec 11)
  /-- R724: `C.BEQZ`. -/
  | cBeqz (rs1 : CReg) (imm : BitVec 8)
  /-- R725: `C.BNEZ`. -/
  | cBnez (rs1 : CReg) (imm : BitVec 8)
  /-- R726: `C.SLLI`. -/
  | cSlli (rd : Reg) (shamt : BitVec 6)
  /-- R727: `C.FLDSP`. -/
  | cFldsp (rd : Reg) (uimm : BitVec 6)
  /-- R728: `C.LWSP`. -/
  | cLwsp (rd : Reg) (uimm : BitVec 6)
  /-- R729: `C.LDSP`. -/
  | cLdsp (rd : Reg) (uimm : BitVec 6)
  /-- R730: `C.JR`. -/
  | cJr (rs1 : Reg)
  /-- R731: `C.MV`. -/
  | cMv (rd rs2 : Reg)
  /-- R732: `C.EBREAK`. -/
  | cEbreak
  /-- R733: `C.JALR`. -/
  | cJalr (rs1 : Reg)
  /-- R734: `C.ADD`. -/
  | cAdd (rd rs2 : Reg)
  /-- R735: `C.FSDSP`. -/
  | cFsdsp (rs2 : Reg) (uimm : BitVec 6)
  /-- R736: `C.SWSP`. -/
  | cSwsp (rs2 : Reg) (uimm : BitVec 6)
  /-- R737: `C.SDSP`. -/
  | cSdsp (rs2 : Reg) (uimm : BitVec 6)
  deriving DecidableEq, Repr

end Sys2Proof
end

