-- ==== Sys2Proof/WellFormed.lean ====
section
/-! DEFINITION. Which operands an instruction may have: the `constraints` of spec/opcode_table.json (30_encoding R306, R307;
reserved compressed encodings of 49_c_compressed R740). Every other operand value of every field is allowed. -/

namespace Sys2Proof

/-- The constraints of the instruction's row; an instruction whose row has none is well formed with every operand. -/
def Instr.wellFormed : Instr → Bool
  | .cAddi4spn _ nzuimm => nzuimm != 0#8
  | .cAddi rd _ => rd != 0#5
  | .cAddiw rd _ => rd != 0#5
  | .cAddi16sp nzimm => nzimm != 0#6
  | .cLui rd nzimm => rd != 2#5 && nzimm != 0#6
  | .cLwsp rd _ => rd != 0#5
  | .cLdsp rd _ => rd != 0#5
  | .cJr rs1 => rs1 != 0#5
  | .cMv _ rs2 => rs2 != 0#5
  | .cJalr rs1 => rs1 != 0#5
  | .cAdd _ rs2 => rs2 != 0#5
  | .lui .. | .auipc .. | .addi .. | .slti .. | .sltiu .. | .xori .. | .ori .. | .andi .. | .slli ..
  | .srli .. | .srai .. | .add .. | .sub .. | .sll .. | .slt .. | .sltu .. | .xor .. | .srl .. | .sra ..
  | .or .. | .and .. | .addiw .. | .slliw .. | .srliw .. | .sraiw .. | .addw .. | .subw .. | .sllw ..
  | .srlw .. | .sraw .. | .jal .. | .jalr .. | .beq .. | .bne .. | .blt .. | .bge .. | .bltu .. | .bgeu ..
  | .lb .. | .lh .. | .lw .. | .lbu .. | .lhu .. | .lwu .. | .ld .. | .sb .. | .sh .. | .sw .. | .sd ..
  | .fence .. | .mul .. | .mulh .. | .mulhsu .. | .mulhu .. | .div .. | .divu .. | .rem .. | .remu ..
  | .mulw .. | .divw .. | .divuw .. | .remw .. | .remuw .. | .lrW .. | .scW .. | .amoswapW .. | .amoaddW ..
  | .amoxorW .. | .amoandW .. | .amoorW .. | .amominW .. | .amomaxW .. | .amominuW .. | .amomaxuW ..
  | .lrD .. | .scD .. | .amoswapD .. | .amoaddD .. | .amoxorD .. | .amoandD .. | .amoorD .. | .amominD ..
  | .amomaxD .. | .amominuD .. | .amomaxuD .. | .flw .. | .fsw .. | .fmaddS .. | .fmsubS .. | .fnmsubS ..
  | .fnmaddS .. | .faddS .. | .fsubS .. | .fmulS .. | .fdivS .. | .fsqrtS .. | .fsgnjS .. | .fsgnjnS ..
  | .fsgnjxS .. | .fminS .. | .fmaxS .. | .fcvtWS .. | .fcvtWUS .. | .fmvXW .. | .feqS .. | .fltS ..
  | .fleS .. | .fclassS .. | .fcvtSW .. | .fcvtSWU .. | .fmvWX .. | .fcvtLS .. | .fcvtLUS .. | .fcvtSL ..
  | .fcvtSLU .. | .fld .. | .fsd .. | .fmaddD .. | .fmsubD .. | .fnmsubD .. | .fnmaddD .. | .faddD ..
  | .fsubD .. | .fmulD .. | .fdivD .. | .fsqrtD .. | .fsgnjD .. | .fsgnjnD .. | .fsgnjxD .. | .fminD ..
  | .fmaxD .. | .fcvtSD .. | .fcvtDS .. | .feqD .. | .fltD .. | .fleD .. | .fclassD .. | .fcvtWD ..
  | .fcvtWUD .. | .fcvtDW .. | .fcvtDWU .. | .fcvtLD .. | .fcvtLUD .. | .fmvXD .. | .fcvtDL .. | .fcvtDLU ..
  | .fmvDX .. | .csrrw .. | .csrrs .. | .csrrc .. | .csrrwi .. | .csrrsi .. | .csrrci .. | .fenceI ..
  | .ecall | .ebreak | .mret | .sret | .wfi | .sfenceVma .. | .cFld .. | .cLw .. | .cLd .. | .cFsd ..
  | .cSw .. | .cSd .. | .cNop .. | .cLi .. | .cSrli .. | .cSrai .. | .cAndi .. | .cSub .. | .cXor ..
  | .cOr .. | .cAnd .. | .cSubw .. | .cAddw .. | .cJ .. | .cBeqz .. | .cBnez .. | .cSlli .. | .cFldsp ..
  | .cEbreak | .cFsdsp .. | .cSwsp .. | .cSdsp .. => true

/-- Well-formedness as a proposition. -/
abbrev Instr.WF (i : Instr) : Prop := i.wellFormed = true

end Sys2Proof
end

