-- ==== Sys2Proof/Decode.lean ====
section
/-! DEFINITION. From words to instructions and back: the decoder of 30_encoding R300 to R325, total on any bytes, and the
encoder written from the same tables. -/

namespace Sys2Proof

/-- The bits `hi .. lo` of a word as a field of `len` bits starting at `lo`. -/
abbrev slice {n : Nat} (w : BitVec n) (lo len : Nat) : BitVec len := w.extractLsb' lo len

/-! ## The cuts of a word -/

/-- The R-format cut of a 32-bit word (30_encoding R302); every other 32-bit format regroups these fields. -/
structure Fields32 where
  funct7 : BitVec 7
  rs2    : BitVec 5
  rs1    : BitVec 5
  funct3 : BitVec 3
  rd     : BitVec 5
  opcode : BitVec 7
  deriving DecidableEq, Repr

/-- The fields of a 32-bit word (30_encoding R302). -/
def Fields32.ofWord (w : BitVec 32) : Fields32 where
  funct7 := slice w 25 7
  rs2    := slice w 20 5
  rs1    := slice w 15 5
  funct3 := slice w 12 3
  rd     := slice w 7 5
  opcode := slice w 0 7

/-- The 32-bit word with these fields. -/
def Fields32.toWord (f : Fields32) : BitVec 32 :=
  f.funct7 ++ f.rs2 ++ f.rs1 ++ f.funct3 ++ f.rd ++ f.opcode

/-- The finest common cut of the 16-bit formats (30_encoding R320): `inst[15:13]`, `[12]`, `[11:10]`, `[9:7]`, `[6:5]`,
`[4:2]`, `[1:0]`. -/
structure Fields16 where
  funct3 : BitVec 3
  b12    : BitVec 1
  b11    : BitVec 2
  r9     : BitVec 3
  b6     : BitVec 2
  r4     : BitVec 3
  op     : BitVec 2
  deriving DecidableEq, Repr

/-- The fields of a 16-bit word (30_encoding R320). -/
def Fields16.ofWord (w : BitVec 16) : Fields16 where
  funct3 := slice w 13 3
  b12    := slice w 12 1
  b11    := slice w 10 2
  r9     := slice w 7 3
  b6     := slice w 5 2
  r4     := slice w 2 3
  op     := slice w 0 2

/-- The 16-bit word with these fields. -/
def Fields16.toWord (f : Fields16) : BitVec 16 :=
  f.funct3 ++ f.b12 ++ f.b11 ++ f.r9 ++ f.b6 ++ f.r4 ++ f.op

/-! ## Immediates of the 32-bit formats (30_encoding R302 to R304) -/

/-- I-format `imm[11:0]`. -/
def Fields32.immI (f : Fields32) : BitVec 12 := f.funct7 ++ f.rs2
/-- S-format `imm[11:0]`. -/
def Fields32.immS (f : Fields32) : BitVec 12 := f.funct7 ++ f.rd
/-- B-format `imm[12:1]`. -/
def Fields32.immB (f : Fields32) : BitVec 12 :=
  slice f.funct7 6 1 ++ slice f.rd 0 1 ++ slice f.funct7 0 6 ++ slice f.rd 1 4
/-- U-format `imm[31:12]`. -/
def Fields32.immU (f : Fields32) : BitVec 20 := f.funct7 ++ f.rs2 ++ f.rs1 ++ f.funct3
/-- J-format `imm[20:1]`. -/
def Fields32.immJ (f : Fields32) : BitVec 20 :=
  slice f.funct7 6 1 ++ (f.rs1 ++ f.funct3) ++ slice f.rs2 0 1 ++ slice f.funct7 0 6 ++ slice f.rs2 1 4
/-- The six-bit shift amount `inst[25:20]` (R303 (a)). -/
def Fields32.shamt6 (f : Fields32) : BitVec 6 := slice f.funct7 0 1 ++ f.rs2

/-! ## The 32-bit decoder (30_encoding R305, R306) -/

namespace Decode
/-- LOAD. -/
def load (f : Fields32) : Option Instr :=
  match f.funct3 with
  | 0#3 => some (.lb f.rd f.rs1 f.immI)
  | 1#3 => some (.lh f.rd f.rs1 f.immI)
  | 2#3 => some (.lw f.rd f.rs1 f.immI)
  | 4#3 => some (.lbu f.rd f.rs1 f.immI)
  | 5#3 => some (.lhu f.rd f.rs1 f.immI)
  | 6#3 => some (.lwu f.rd f.rs1 f.immI)
  | 3#3 => some (.ld f.rd f.rs1 f.immI)
  | _ => none

/-- STORE. -/
def store (f : Fields32) : Option Instr :=
  match f.funct3 with
  | 0#3 => some (.sb f.rs1 f.rs2 f.immS)
  | 1#3 => some (.sh f.rs1 f.rs2 f.immS)
  | 2#3 => some (.sw f.rs1 f.rs2 f.immS)
  | 3#3 => some (.sd f.rs1 f.rs2 f.immS)
  | _ => none

/-- BRANCH. -/
def branch (f : Fields32) : Option Instr :=
  match f.funct3 with
  | 0#3 => some (.beq f.rs1 f.rs2 f.immB)
  | 1#3 => some (.bne f.rs1 f.rs2 f.immB)
  | 4#3 => some (.blt f.rs1 f.rs2 f.immB)
  | 5#3 => some (.bge f.rs1 f.rs2 f.immB)
  | 6#3 => some (.bltu f.rs1 f.rs2 f.immB)
  | 7#3 => some (.bgeu f.rs1 f.rs2 f.immB)
  | _ => none

/-- MISC-MEM: `FENCE` and `FENCE.I`, every other field free (R311). -/
def miscMem (f : Fields32) : Option Instr :=
  match f.funct3 with
  | 0#3 => some (.fence (slice f.funct7 3 4) (slice f.funct7 0 3 ++ slice f.rs2 4 1) (slice f.rs2 0 4) f.rs1 f.rd)
  | 1#3 => some (.fenceI f.immI f.rs1 f.rd)
  | _ => none

/-- LOAD-FP. -/
def loadFp (f : Fields32) : Option Instr :=
  match f.funct3 with
  | 2#3 => some (.flw f.rd f.rs1 f.immI)
  | 3#3 => some (.fld f.rd f.rs1 f.immI)
  | _ => none

/-- STORE-FP. -/
def storeFp (f : Fields32) : Option Instr :=
  match f.funct3 with
  | 2#3 => some (.fsw f.rs1 f.rs2 f.immS)
  | 3#3 => some (.fsd f.rs1 f.rs2 f.immS)
  | _ => none

/-- JALR. -/
def jalr (f : Fields32) : Option Instr :=
  match f.funct3 with
  | 0#3 => some (.jalr f.rd f.rs1 f.immI)
  | _ => none

/-- OP-IMM: the shifts have a six-bit amount and a six-bit minor field (R303 (a)). -/
def opImm (f : Fields32) : Option Instr :=
  match f.funct3, slice f.funct7 1 6 with
  | 0#3, _ => some (.addi f.rd f.rs1 f.immI)
  | 2#3, _ => some (.slti f.rd f.rs1 f.immI)
  | 3#3, _ => some (.sltiu f.rd f.rs1 f.immI)
  | 4#3, _ => some (.xori f.rd f.rs1 f.immI)
  | 6#3, _ => some (.ori f.rd f.rs1 f.immI)
  | 7#3, _ => some (.andi f.rd f.rs1 f.immI)
  | 1#3, 0#6 => some (.slli f.rd f.rs1 f.shamt6)
  | 5#3, 0#6 => some (.srli f.rd f.rs1 f.shamt6)
  | 5#3, 0x10#6 => some (.srai f.rd f.rs1 f.shamt6)
  | _, _ => none

/-- OP-IMM-32: the shifts have a five-bit amount (R303 (b)). -/
def opImm32 (f : Fields32) : Option Instr :=
  match f.funct3, f.funct7 with
  | 0#3, _ => some (.addiw f.rd f.rs1 f.immI)
  | 1#3, 0#7 => some (.slliw f.rd f.rs1 f.rs2)
  | 5#3, 0#7 => some (.srliw f.rd f.rs1 f.rs2)
  | 5#3, 0x20#7 => some (.sraiw f.rd f.rs1 f.rs2)
  | _, _ => none

/-- OP. -/
def op (f : Fields32) : Option Instr :=
  match f.funct7, f.funct3 with
  | 0#7, 0#3 => some (.add f.rd f.rs1 f.rs2)
  | 0x20#7, 0#3 => some (.sub f.rd f.rs1 f.rs2)
  | 0#7, 1#3 => some (.sll f.rd f.rs1 f.rs2)
  | 0#7, 2#3 => some (.slt f.rd f.rs1 f.rs2)
  | 0#7, 3#3 => some (.sltu f.rd f.rs1 f.rs2)
  | 0#7, 4#3 => some (.xor f.rd f.rs1 f.rs2)
  | 0#7, 5#3 => some (.srl f.rd f.rs1 f.rs2)
  | 0x20#7, 5#3 => some (.sra f.rd f.rs1 f.rs2)
  | 0#7, 6#3 => some (.or f.rd f.rs1 f.rs2)
  | 0#7, 7#3 => some (.and f.rd f.rs1 f.rs2)
  | 1#7, 0#3 => some (.mul f.rd f.rs1 f.rs2)
  | 1#7, 1#3 => some (.mulh f.rd f.rs1 f.rs2)
  | 1#7, 2#3 => some (.mulhsu f.rd f.rs1 f.rs2)
  | 1#7, 3#3 => some (.mulhu f.rd f.rs1 f.rs2)
  | 1#7, 4#3 => some (.div f.rd f.rs1 f.rs2)
  | 1#7, 5#3 => some (.divu f.rd f.rs1 f.rs2)
  | 1#7, 6#3 => some (.rem f.rd f.rs1 f.rs2)
  | 1#7, 7#3 => some (.remu f.rd f.rs1 f.rs2)
  | _, _ => none

/-- OP-32. -/
def op32 (f : Fields32) : Option Instr :=
  match f.funct7, f.funct3 with
  | 0#7, 0#3 => some (.addw f.rd f.rs1 f.rs2)
  | 0x20#7, 0#3 => some (.subw f.rd f.rs1 f.rs2)
  | 0#7, 1#3 => some (.sllw f.rd f.rs1 f.rs2)
  | 0#7, 5#3 => some (.srlw f.rd f.rs1 f.rs2)
  | 0x20#7, 5#3 => some (.sraw f.rd f.rs1 f.rs2)
  | 1#7, 0#3 => some (.mulw f.rd f.rs1 f.rs2)
  | 1#7, 4#3 => some (.divw f.rd f.rs1 f.rs2)
  | 1#7, 5#3 => some (.divuw f.rd f.rs1 f.rs2)
  | 1#7, 6#3 => some (.remw f.rd f.rs1 f.rs2)
  | 1#7, 7#3 => some (.remuw f.rd f.rs1 f.rs2)
  | _, _ => none

/-- AMO: `funct5 = inst[31:27]`; the `rs2` field of `LR` must be zero. -/
def amo (f : Fields32) : Option Instr :=
  match f.funct3, slice f.funct7 2 5 with
  | 2#3, 2#5 => if f.rs2 = 0#5 then some (.lrW f.rd f.rs1 (slice f.funct7 1 1) (slice f.funct7 0 1)) else none
  | 2#3, 3#5 => some (.scW f.rd f.rs1 f.rs2 (slice f.funct7 1 1) (slice f.funct7 0 1))
  | 2#3, 1#5 => some (.amoswapW f.rd f.rs1 f.rs2 (slice f.funct7 1 1) (slice f.funct7 0 1))
  | 2#3, 0#5 => some (.amoaddW f.rd f.rs1 f.rs2 (slice f.funct7 1 1) (slice f.funct7 0 1))
  | 2#3, 4#5 => some (.amoxorW f.rd f.rs1 f.rs2 (slice f.funct7 1 1) (slice f.funct7 0 1))
  | 2#3, 0xc#5 => some (.amoandW f.rd f.rs1 f.rs2 (slice f.funct7 1 1) (slice f.funct7 0 1))
  | 2#3, 8#5 => some (.amoorW f.rd f.rs1 f.rs2 (slice f.funct7 1 1) (slice f.funct7 0 1))
  | 2#3, 0x10#5 => some (.amominW f.rd f.rs1 f.rs2 (slice f.funct7 1 1) (slice f.funct7 0 1))
  | 2#3, 0x14#5 => some (.amomaxW f.rd f.rs1 f.rs2 (slice f.funct7 1 1) (slice f.funct7 0 1))
  | 2#3, 0x18#5 => some (.amominuW f.rd f.rs1 f.rs2 (slice f.funct7 1 1) (slice f.funct7 0 1))
  | 2#3, 0x1c#5 => some (.amomaxuW f.rd f.rs1 f.rs2 (slice f.funct7 1 1) (slice f.funct7 0 1))
  | 3#3, 2#5 => if f.rs2 = 0#5 then some (.lrD f.rd f.rs1 (slice f.funct7 1 1) (slice f.funct7 0 1)) else none
  | 3#3, 3#5 => some (.scD f.rd f.rs1 f.rs2 (slice f.funct7 1 1) (slice f.funct7 0 1))
  | 3#3, 1#5 => some (.amoswapD f.rd f.rs1 f.rs2 (slice f.funct7 1 1) (slice f.funct7 0 1))
  | 3#3, 0#5 => some (.amoaddD f.rd f.rs1 f.rs2 (slice f.funct7 1 1) (slice f.funct7 0 1))
  | 3#3, 4#5 => some (.amoxorD f.rd f.rs1 f.rs2 (slice f.funct7 1 1) (slice f.funct7 0 1))
  | 3#3, 0xc#5 => some (.amoandD f.rd f.rs1 f.rs2 (slice f.funct7 1 1) (slice f.funct7 0 1))
  | 3#3, 8#5 => some (.amoorD f.rd f.rs1 f.rs2 (slice f.funct7 1 1) (slice f.funct7 0 1))
  | 3#3, 0x10#5 => some (.amominD f.rd f.rs1 f.rs2 (slice f.funct7 1 1) (slice f.funct7 0 1))
  | 3#3, 0x14#5 => some (.amomaxD f.rd f.rs1 f.rs2 (slice f.funct7 1 1) (slice f.funct7 0 1))
  | 3#3, 0x18#5 => some (.amominuD f.rd f.rs1 f.rs2 (slice f.funct7 1 1) (slice f.funct7 0 1))
  | 3#3, 0x1c#5 => some (.amomaxuD f.rd f.rs1 f.rs2 (slice f.funct7 1 1) (slice f.funct7 0 1))
  | _, _ => none

/-- MADD (R4): `fmt = inst[26:25]`. -/
def madd (f : Fields32) : Option Instr :=
  match slice f.funct7 0 2 with
  | 0#2 => some (.fmaddS f.rd f.rs1 f.rs2 (slice f.funct7 2 5) f.funct3)
  | 1#2 => some (.fmaddD f.rd f.rs1 f.rs2 (slice f.funct7 2 5) f.funct3)
  | _ => none

/-- MSUB (R4): `fmt = inst[26:25]`. -/
def msub (f : Fields32) : Option Instr :=
  match slice f.funct7 0 2 with
  | 0#2 => some (.fmsubS f.rd f.rs1 f.rs2 (slice f.funct7 2 5) f.funct3)
  | 1#2 => some (.fmsubD f.rd f.rs1 f.rs2 (slice f.funct7 2 5) f.funct3)
  | _ => none

/-- NMSUB (R4): `fmt = inst[26:25]`. -/
def nmsub (f : Fields32) : Option Instr :=
  match slice f.funct7 0 2 with
  | 0#2 => some (.fnmsubS f.rd f.rs1 f.rs2 (slice f.funct7 2 5) f.funct3)
  | 1#2 => some (.fnmsubD f.rd f.rs1 f.rs2 (slice f.funct7 2 5) f.funct3)
  | _ => none

/-- NMADD (R4): `fmt = inst[26:25]`. -/
def nmadd (f : Fields32) : Option Instr :=
  match slice f.funct7 0 2 with
  | 0#2 => some (.fnmaddS f.rd f.rs1 f.rs2 (slice f.funct7 2 5) f.funct3)
  | 1#2 => some (.fnmaddD f.rd f.rs1 f.rs2 (slice f.funct7 2 5) f.funct3)
  | _ => none

/-- OP-FP rows told apart by `funct7` alone (two sources and a rounding mode; 45 R556, 46 R601). -/
def opFpArith (f : Fields32) : Option Instr :=
  match f.funct7 with
  | 0#7 => some (.faddS f.rd f.rs1 f.rs2 f.funct3)
  | 4#7 => some (.fsubS f.rd f.rs1 f.rs2 f.funct3)
  | 8#7 => some (.fmulS f.rd f.rs1 f.rs2 f.funct3)
  | 0xc#7 => some (.fdivS f.rd f.rs1 f.rs2 f.funct3)
  | 1#7 => some (.faddD f.rd f.rs1 f.rs2 f.funct3)
  | 5#7 => some (.fsubD f.rd f.rs1 f.rs2 f.funct3)
  | 9#7 => some (.fmulD f.rd f.rs1 f.rs2 f.funct3)
  | 0xd#7 => some (.fdivD f.rd f.rs1 f.rs2 f.funct3)
  | _ => none

/-- OP-FP rows with `funct3` as a minor field (two sources). -/
def opFpFunct3 (f : Fields32) : Option Instr :=
  match f.funct7, f.funct3 with
  | 0x10#7, 0#3 => some (.fsgnjS f.rd f.rs1 f.rs2)
  | 0x10#7, 1#3 => some (.fsgnjnS f.rd f.rs1 f.rs2)
  | 0x10#7, 2#3 => some (.fsgnjxS f.rd f.rs1 f.rs2)
  | 0x14#7, 0#3 => some (.fminS f.rd f.rs1 f.rs2)
  | 0x14#7, 1#3 => some (.fmaxS f.rd f.rs1 f.rs2)
  | 0x50#7, 2#3 => some (.feqS f.rd f.rs1 f.rs2)
  | 0x50#7, 1#3 => some (.fltS f.rd f.rs1 f.rs2)
  | 0x50#7, 0#3 => some (.fleS f.rd f.rs1 f.rs2)
  | 0x11#7, 0#3 => some (.fsgnjD f.rd f.rs1 f.rs2)
  | 0x11#7, 1#3 => some (.fsgnjnD f.rd f.rs1 f.rs2)
  | 0x11#7, 2#3 => some (.fsgnjxD f.rd f.rs1 f.rs2)
  | 0x15#7, 0#3 => some (.fminD f.rd f.rs1 f.rs2)
  | 0x15#7, 1#3 => some (.fmaxD f.rd f.rs1 f.rs2)
  | 0x51#7, 2#3 => some (.feqD f.rd f.rs1 f.rs2)
  | 0x51#7, 1#3 => some (.fltD f.rd f.rs1 f.rs2)
  | 0x51#7, 0#3 => some (.fleD f.rd f.rs1 f.rs2)
  | _, _ => none

/-- OP-FP rows with the `rs2` field as a minor field (one source and a rounding mode). -/
def opFpUnary (f : Fields32) : Option Instr :=
  match f.funct7, f.rs2 with
  | 0x2c#7, 0#5 => some (.fsqrtS f.rd f.rs1 f.funct3)
  | 0x60#7, 0#5 => some (.fcvtWS f.rd f.rs1 f.funct3)
  | 0x60#7, 1#5 => some (.fcvtWUS f.rd f.rs1 f.funct3)
  | 0x68#7, 0#5 => some (.fcvtSW f.rd f.rs1 f.funct3)
  | 0x68#7, 1#5 => some (.fcvtSWU f.rd f.rs1 f.funct3)
  | 0x60#7, 2#5 => some (.fcvtLS f.rd f.rs1 f.funct3)
  | 0x60#7, 3#5 => some (.fcvtLUS f.rd f.rs1 f.funct3)
  | 0x68#7, 2#5 => some (.fcvtSL f.rd f.rs1 f.funct3)
  | 0x68#7, 3#5 => some (.fcvtSLU f.rd f.rs1 f.funct3)
  | 0x2d#7, 0#5 => some (.fsqrtD f.rd f.rs1 f.funct3)
  | 0x20#7, 1#5 => some (.fcvtSD f.rd f.rs1 f.funct3)
  | 0x21#7, 0#5 => some (.fcvtDS f.rd f.rs1 f.funct3)
  | 0x61#7, 0#5 => some (.fcvtWD f.rd f.rs1 f.funct3)
  | 0x61#7, 1#5 => some (.fcvtWUD f.rd f.rs1 f.funct3)
  | 0x69#7, 0#5 => some (.fcvtDW f.rd f.rs1 f.funct3)
  | 0x69#7, 1#5 => some (.fcvtDWU f.rd f.rs1 f.funct3)
  | 0x61#7, 2#5 => some (.fcvtLD f.rd f.rs1 f.funct3)
  | 0x61#7, 3#5 => some (.fcvtLUD f.rd f.rs1 f.funct3)
  | 0x69#7, 2#5 => some (.fcvtDL f.rd f.rs1 f.funct3)
  | 0x69#7, 3#5 => some (.fcvtDLU f.rd f.rs1 f.funct3)
  | _, _ => none

/-- OP-FP rows with `rs2` and `funct3` both fixed (moves and classification). -/
def opFpMove (f : Fields32) : Option Instr :=
  match f.funct7, f.rs2, f.funct3 with
  | 0x70#7, 0#5, 0#3 => some (.fmvXW f.rd f.rs1)
  | 0x70#7, 0#5, 1#3 => some (.fclassS f.rd f.rs1)
  | 0x78#7, 0#5, 0#3 => some (.fmvWX f.rd f.rs1)
  | 0x71#7, 0#5, 1#3 => some (.fclassD f.rd f.rs1)
  | 0x71#7, 0#5, 0#3 => some (.fmvXD f.rd f.rs1)
  | 0x79#7, 0#5, 0#3 => some (.fmvDX f.rd f.rs1)
  | _, _, _ => none

/-- OP-FP: no word fits rows of two of the four groups (30_encoding R325). -/
def opFp (f : Fields32) : Option Instr :=
  opFpArith f <|> opFpFunct3 f <|> opFpUnary f <|> opFpMove f

/-- SYSTEM, `funct3 = 000`: the exact words of 30_encoding R306, and `SFENCE.VMA` with `rs1` and `rs2` free. -/
def systemPriv (f : Fields32) : Option Instr :=
  match f.funct7, f.rs2, f.rs1, f.rd with
  | 0#7, 0#5, 0#5, 0#5 => some .ecall
  | 0#7, 1#5, 0#5, 0#5 => some .ebreak
  | 0x18#7, 2#5, 0#5, 0#5 => some .mret
  | 8#7, 2#5, 0#5, 0#5 => some .sret
  | 8#7, 5#5, 0#5, 0#5 => some .wfi
  | 0x09#7, _, _, 0#5 => some (.sfenceVma f.rs1 f.rs2)
  | _, _, _, _ => none

/-- SYSTEM. -/
def system (f : Fields32) : Option Instr :=
  match f.funct3 with
  | 0#3 => systemPriv f
  | 1#3 => some (.csrrw f.rd f.rs1 f.immI)
  | 2#3 => some (.csrrs f.rd f.rs1 f.immI)
  | 3#3 => some (.csrrc f.rd f.rs1 f.immI)
  | 5#3 => some (.csrrwi f.rd f.rs1 f.immI)
  | 6#3 => some (.csrrsi f.rd f.rs1 f.immI)
  | 7#3 => some (.csrrci f.rd f.rs1 f.immI)
  | _ => none

/-- The major opcode map (30_encoding R305); `none` is an illegal instruction (R308). -/
def word32 (f : Fields32) : Option Instr :=
  match f.opcode with
  | 0x03#7 => load f
  | 0x07#7 => loadFp f
  | 0x0f#7 => miscMem f
  | 0x13#7 => opImm f
  | 0x17#7 => some (.auipc f.rd f.immU)
  | 0x1b#7 => opImm32 f
  | 0x23#7 => store f
  | 0x27#7 => storeFp f
  | 0x2f#7 => amo f
  | 0x33#7 => op f
  | 0x37#7 => some (.lui f.rd f.immU)
  | 0x3b#7 => op32 f
  | 0x43#7 => madd f
  | 0x47#7 => msub f
  | 0x4b#7 => nmsub f
  | 0x4f#7 => nmadd f
  | 0x53#7 => opFp f
  | 0x63#7 => branch f
  | 0x67#7 => jalr f
  | 0x6f#7 => some (.jal f.rd f.immJ)
  | 0x73#7 => system f
  | _ => none

end Decode

/-! ## Operands of the 16-bit formats (49_c_compressed, 30_encoding R320, R321) -/

/-- The five-bit register field `inst[11:7]`. -/
def Fields16.rd (f : Fields16) : BitVec 5 := f.b11 ++ f.r9
/-- The five-bit register field `inst[6:2]`. -/
def Fields16.rs2 (f : Fields16) : BitVec 5 := f.b6 ++ f.r4
/-- CIW immediate, value bits 9:2 (R701). -/
def Fields16.immSpn (f : Fields16) : BitVec 8 :=
  slice f.b11 0 1 ++ f.r9 ++ f.b12 ++ slice f.b11 1 1 ++ slice f.b6 0 1 ++ slice f.b6 1 1
/-- CL and CS doubleword offset, value bits 7:3 (R702, R704, R705, R707). -/
def Fields16.immD (f : Fields16) : BitVec 5 := f.b6 ++ f.b12 ++ f.b11
/-- CL and CS word offset, value bits 6:2 (R703, R706). -/
def Fields16.immW (f : Fields16) : BitVec 5 := slice f.b6 0 1 ++ f.b12 ++ f.b11 ++ slice f.b6 1 1
/-- CI immediate or shift amount, value bits 5:0 (R708 to R711, R713 to R716, R726). -/
def Fields16.immCI (f : Fields16) : BitVec 6 := f.b12 ++ f.b6 ++ f.r4
/-- `C.ADDI16SP` immediate, value bits 9:4 (R712). -/
def Fields16.imm16sp (f : Fields16) : BitVec 6 :=
  f.b12 ++ slice f.r4 1 2 ++ slice f.b6 0 1 ++ slice f.r4 0 1 ++ slice f.b6 1 1
/-- `C.LWSP` offset, value bits 7:2 (R728). -/
def Fields16.immLwsp (f : Fields16) : BitVec 6 := slice f.r4 0 2 ++ f.b12 ++ f.b6 ++ slice f.r4 2 1
/-- `C.FLDSP` and `C.LDSP` offset, value bits 8:3 (R727, R729). -/
def Fields16.immLdsp (f : Fields16) : BitVec 6 := f.r4 ++ f.b12 ++ f.b6
/-- `C.SWSP` offset, value bits 7:2 (R736). -/
def Fields16.immSwsp (f : Fields16) : BitVec 6 := slice f.r9 0 2 ++ f.b12 ++ f.b11 ++ slice f.r9 2 1
/-- `C.FSDSP` and `C.SDSP` offset, value bits 8:3 (R735, R737). -/
def Fields16.immSdsp (f : Fields16) : BitVec 6 := f.r9 ++ f.b12 ++ f.b11
/-- CJ offset, value bits 11:1 (R723). -/
def Fields16.immJ (f : Fields16) : BitVec 11 :=
  f.b12 ++ slice f.r9 1 1 ++ slice f.b11 0 1 ++ slice f.r9 2 1 ++ slice f.b6 1 1 ++ slice f.r9 0 1 ++ slice f.r4 0 1 ++
    slice f.b11 1 1 ++ slice f.b6 0 1 ++ slice f.r4 1 2
/-- CB branch offset, value bits 8:1 (R724, R725). -/
def Fields16.immB (f : Fields16) : BitVec 8 := f.b12 ++ f.b6 ++ slice f.r4 0 1 ++ f.b11 ++ slice f.r4 1 2

/-! ## The 16-bit decoder (49_c_compressed R701 to R741) -/

namespace Decode

/-- The instruction if its row's constraints hold; otherwise the word is reserved (49_c_compressed R740). -/
def constrained (i : Instr) : Option Instr := if i.wellFormed then some i else none

/-- Quadrant 0, `inst[1:0] = 00`. -/
def quadrant0 (f : Fields16) : Option Instr :=
  match f.funct3 with
  | 0#3 => constrained (.cAddi4spn f.r4 f.immSpn)
  | 1#3 => some (.cFld f.r4 f.r9 f.immD)
  | 2#3 => some (.cLw f.r4 f.r9 f.immW)
  | 3#3 => some (.cLd f.r4 f.r9 f.immD)
  | 5#3 => some (.cFsd f.r9 f.r4 f.immD)
  | 6#3 => some (.cSw f.r9 f.r4 f.immW)
  | 7#3 => some (.cSd f.r9 f.r4 f.immD)
  | _ => none

/-- Quadrant 1, `funct3 = 100`: shifts, `C.ANDI` and the register-register forms. -/
def quadrant1Alu (f : Fields16) : Option Instr :=
  match f.b11, f.b12, f.b6 with
  | 0#2, _, _ => some (.cSrli f.r9 f.immCI)
  | 1#2, _, _ => some (.cSrai f.r9 f.immCI)
  | 2#2, _, _ => some (.cAndi f.r9 f.immCI)
  | 3#2, 0#1, 0#2 => some (.cSub f.r9 f.r4)
  | 3#2, 0#1, 1#2 => some (.cXor f.r9 f.r4)
  | 3#2, 0#1, 2#2 => some (.cOr f.r9 f.r4)
  | 3#2, 0#1, 3#2 => some (.cAnd f.r9 f.r4)
  | 3#2, 1#1, 0#2 => some (.cSubw f.r9 f.r4)
  | 3#2, 1#1, 1#2 => some (.cAddw f.r9 f.r4)
  | _, _, _ => none

/-- Quadrant 1, `inst[1:0] = 01`. -/
def quadrant1 (f : Fields16) : Option Instr :=
  match f.funct3 with
  | 0#3 => if f.rd = 0#5 then some (.cNop f.immCI) else some (.cAddi f.rd f.immCI)
  | 1#3 => constrained (.cAddiw f.rd f.immCI)
  | 2#3 => some (.cLi f.rd f.immCI)
  | 3#3 => if f.rd = 2#5 then constrained (.cAddi16sp f.imm16sp) else constrained (.cLui f.rd f.immCI)
  | 4#3 => quadrant1Alu f
  | 5#3 => some (.cJ f.immJ)
  | 6#3 => some (.cBeqz f.r9 f.immB)
  | 7#3 => some (.cBnez f.r9 f.immB)
  | _ => none

/-- Quadrant 2, `funct3 = 100`: `C.JR`, `C.MV`, `C.EBREAK`, `C.JALR`, `C.ADD`. -/
def quadrant2Jump (f : Fields16) : Option Instr :=
  match f.b12 with
  | 0#1 => if f.rs2 = 0#5 then constrained (.cJr f.rd) else some (.cMv f.rd f.rs2)
  | _ =>
    if f.rs2 = 0#5 then
      if f.rd = 0#5 then some .cEbreak else some (.cJalr f.rd)
    else some (.cAdd f.rd f.rs2)

/-- Quadrant 2, `inst[1:0] = 10`. -/
def quadrant2 (f : Fields16) : Option Instr :=
  match f.funct3 with
  | 0#3 => some (.cSlli f.rd f.immCI)
  | 1#3 => some (.cFldsp f.rd f.immLdsp)
  | 2#3 => constrained (.cLwsp f.rd f.immLwsp)
  | 3#3 => constrained (.cLdsp f.rd f.immLdsp)
  | 4#3 => quadrant2Jump f
  | 5#3 => some (.cFsdsp f.rs2 f.immSdsp)
  | 6#3 => some (.cSwsp f.rs2 f.immSwsp)
  | 7#3 => some (.cSdsp f.rs2 f.immSdsp)
  | _ => none

/-- The three quadrants (30_encoding R320); a word with `inst[1:0] = 11` is not a compressed instruction (R301). -/
def word16 (f : Fields16) : Option Instr :=
  match f.op with
  | 0#2 => quadrant0 f
  | 1#2 => quadrant1 f
  | 2#2 => quadrant2 f
  | _ => none

end Decode

/-! ## Decoding words and bytes -/

/-- An instruction as it stands in memory: one parcel or one 32-bit word (30_encoding R300). -/
inductive Encoded where
  | half (w : BitVec 16)
  | word (w : BitVec 32)
  deriving DecidableEq, Repr

/-- The instruction's length in bytes, `ilen` (30_encoding R301). -/
def Encoded.ilen : Encoded → Nat
  | .half _ => 2
  | .word _ => 4

/-- The instruction bits zero-extended to 64 bits: the trap value of an illegal instruction (60_exceptions R811). -/
def Encoded.trapValue : Encoded → Word
  | .half w => w.zeroExtend 64
  | .word w => w.zeroExtend 64

/-- Why bytes are no instruction. -/
inductive Reject where
  /-- Fewer bytes than the instruction's length. -/
  | truncated
  /-- A 16-bit word that no row fits, or whose row's constraints fail (30_encoding R308, 49_c_compressed R740). -/
  | illegal16 (w : BitVec 16)
  /-- A 32-bit word that no row fits (30_encoding R308). -/
  | illegal32 (w : BitVec 32)
  deriving DecidableEq, Repr

/-- What decoding bytes gives. -/
inductive Decoded where
  | ok (i : Instr) (rest : List Byte)
  | rejected (r : Reject)
  deriving DecidableEq, Repr

/-- The decoder of 30_encoding R325 on a fetched word: one instruction with its fields, or illegal (`none`). -/
def decode : Encoded → Option Instr
  | .half w => Decode.word16 (Fields16.ofWord w)
  | .word w => Decode.word32 (Fields32.ofWord w)

/-- A 16-bit parcel from its two bytes, the lower address first (20_memory R221). -/
def parcelOfBytes (b0 b1 : Byte) : BitVec 16 := b1 ++ b0

/-- The two bytes of a parcel, the lower address first (20_memory R221). -/
def bytesOfParcel (p : BitVec 16) : List Byte := [slice p 0 8, slice p 8 8]

/-- Decoding a string of bytes as they lie in memory: the length rule of 30_encoding R301, then the rows. -/
def decodeBytes : List Byte → Decoded
  | b0 :: b1 :: rest =>
    let lo := parcelOfBytes b0 b1
    if slice lo 0 2 = 3#2 then
      match rest with
      | b2 :: b3 :: rest' =>
        let w : BitVec 32 := parcelOfBytes b2 b3 ++ lo
        match decode (.word w) with
        | some i => .ok i rest'
        | none => .rejected (.illegal32 w)
      | _ => .rejected .truncated
    else
      match decode (.half lo) with
      | some i => .ok i rest
      | none => .rejected (.illegal16 lo)
  | _ => .rejected .truncated

/-! ## The encoder -/

namespace Encode

/-- R format. -/
def r (op : BitVec 7) (f3 : BitVec 3) (f7 : BitVec 7) (rd rs1 rs2 : Reg) : Encoded :=
  .word (Fields32.toWord ⟨f7, rs2, rs1, f3, rd, op⟩)

/-- I format: `imm[11:0]` in `inst[31:20]`. -/
def i (op : BitVec 7) (f3 : BitVec 3) (rd rs1 : Reg) (imm : BitVec 12) : Encoded :=
  r op f3 (slice imm 5 7) rd rs1 (slice imm 0 5)

/-- S format. -/
def s (op : BitVec 7) (f3 : BitVec 3) (rs1 rs2 : Reg) (imm : BitVec 12) : Encoded :=
  r op f3 (slice imm 5 7) (slice imm 0 5) rs1 rs2

/-- B format: `imm[12:1]`. -/
def b (op : BitVec 7) (f3 : BitVec 3) (rs1 rs2 : Reg) (imm : BitVec 12) : Encoded :=
  r op f3 (slice imm 11 1 ++ slice imm 4 6) (slice imm 0 4 ++ slice imm 10 1) rs1 rs2

/-- U format: `imm[31:12]`. -/
def u (op : BitVec 7) (rd : Reg) (imm : BitVec 20) : Encoded :=
  r op (slice imm 0 3) (slice imm 13 7) rd (slice imm 3 5) (slice imm 8 5)

/-- J format: `imm[20:1]`. -/
def j (op : BitVec 7) (rd : Reg) (imm : BitVec 20) : Encoded :=
  r op (slice imm 11 3) (slice imm 19 1 ++ slice imm 4 6) rd (slice imm 14 5) (slice imm 0 4 ++ slice imm 10 1)

/-- Shift by a six-bit amount: `funct6` in `inst[31:26]` (R303 (a)). -/
def shift6 (op : BitVec 7) (f3 : BitVec 3) (f6 : BitVec 6) (rd rs1 : Reg) (sh : BitVec 6) : Encoded :=
  r op f3 (f6 ++ slice sh 5 1) rd rs1 (slice sh 0 5)

/-- Atomic format: `funct5`, `aq`, `rl` (R303 (e)). -/
def amo (f3 : BitVec 3) (f5 : BitVec 5) (rd rs1 rs2 : Reg) (aq rl : BitVec 1) : Encoded :=
  r 0x2f#7 f3 (f5 ++ aq ++ rl) rd rs1 rs2

/-- R4 format: `rs3` and `fmt` (R303 (c)). -/
def r4 (op : BitVec 7) (fmt : BitVec 2) (rd rs1 rs2 rs3 : Reg) (rm : RmField) : Encoded :=
  r op rm (rs3 ++ fmt) rd rs1 rs2

/-- A 16-bit word. -/
def c (op : BitVec 2) (f3 : BitVec 3) (b12 : BitVec 1) (b11 : BitVec 2) (r9 : BitVec 3) (b6 : BitVec 2) (r4 : BitVec 3) :
    Encoded :=
  .half (Fields16.toWord ⟨f3, b12, b11, r9, b6, r4, op⟩)

/-- CI format with a five-bit register and a six-bit immediate in natural order. -/
def ci (op : BitVec 2) (f3 : BitVec 3) (rd : Reg) (imm : BitVec 6) : Encoded :=
  c op f3 (slice imm 5 1) (slice rd 3 2) (slice rd 0 3) (slice imm 3 2) (slice imm 0 3)

/-- CR format: `inst[12]` and two five-bit registers. -/
def cr (b12 : BitVec 1) (rd rs2 : Reg) : Encoded :=
  c 2#2 4#3 b12 (slice rd 3 2) (slice rd 0 3) (slice rs2 3 2) (slice rs2 0 3)

/-- CL and CS with a doubleword offset (value bits 7:3). -/
def clD (f3 : BitVec 3) (r4 r9 : CReg) (imm : BitVec 5) : Encoded :=
  c 0#2 f3 (slice imm 2 1) (slice imm 0 2) r9 (slice imm 3 2) r4

/-- CL and CS with a word offset (value bits 6:2). -/
def clW (f3 : BitVec 3) (r4 r9 : CReg) (imm : BitVec 5) : Encoded :=
  c 0#2 f3 (slice imm 3 1) (slice imm 1 2) r9 (slice imm 0 1 ++ slice imm 4 1) r4

/-- CB branch: offset value bits 8:1. -/
def cb (f3 : BitVec 3) (rs1 : CReg) (imm : BitVec 8) : Encoded :=
  c 1#2 f3 (slice imm 7 1) (slice imm 2 2) rs1 (slice imm 5 2) (slice imm 0 2 ++ slice imm 4 1)

/-- CB shift or `C.ANDI`: `inst[11:10]` fixed, six-bit immediate. -/
def cbAlu (b11 : BitVec 2) (rd : CReg) (imm : BitVec 6) : Encoded :=
  c 1#2 4#3 (slice imm 5 1) b11 rd (slice imm 3 2) (slice imm 0 3)

/-- CA format. -/
def ca (b12 : BitVec 1) (b6 : BitVec 2) (rd rs2 : CReg) : Encoded := c 1#2 4#3 b12 3#2 rd b6 rs2

/-- `C.FLDSP` and `C.LDSP`: offset value bits 8:3. -/
def ldsp (f3 : BitVec 3) (rd : Reg) (imm : BitVec 6) : Encoded :=
  c 2#2 f3 (slice imm 2 1) (slice rd 3 2) (slice rd 0 3) (slice imm 0 2) (slice imm 3 3)

/-- `C.FSDSP` and `C.SDSP`: offset value bits 8:3. -/
def sdsp (f3 : BitVec 3) (rs2 : Reg) (imm : BitVec 6) : Encoded :=
  c 2#2 f3 (slice imm 2 1) (slice imm 0 2) (slice imm 3 3) (slice rs2 3 2) (slice rs2 0 3)

end Encode

/-- The word of an instruction, from its row's pattern in spec/opcode_table.json (30_encoding R307). -/
def encode : Instr → Encoded
  | .lui rd imm => Encode.u 0x37#7 rd imm
  | .auipc rd imm => Encode.u 0x17#7 rd imm
  | .addi rd rs1 imm => Encode.i 0x13#7 0#3 rd rs1 imm
  | .slti rd rs1 imm => Encode.i 0x13#7 2#3 rd rs1 imm
  | .sltiu rd rs1 imm => Encode.i 0x13#7 3#3 rd rs1 imm
  | .xori rd rs1 imm => Encode.i 0x13#7 4#3 rd rs1 imm
  | .ori rd rs1 imm => Encode.i 0x13#7 6#3 rd rs1 imm
  | .andi rd rs1 imm => Encode.i 0x13#7 7#3 rd rs1 imm
  | .slli rd rs1 shamt => Encode.shift6 0x13#7 1#3 0#6 rd rs1 shamt
  | .srli rd rs1 shamt => Encode.shift6 0x13#7 5#3 0#6 rd rs1 shamt
  | .srai rd rs1 shamt => Encode.shift6 0x13#7 5#3 0x10#6 rd rs1 shamt
  | .add rd rs1 rs2 => Encode.r 0x33#7 0#3 0#7 rd rs1 rs2
  | .sub rd rs1 rs2 => Encode.r 0x33#7 0#3 0x20#7 rd rs1 rs2
  | .sll rd rs1 rs2 => Encode.r 0x33#7 1#3 0#7 rd rs1 rs2
  | .slt rd rs1 rs2 => Encode.r 0x33#7 2#3 0#7 rd rs1 rs2
  | .sltu rd rs1 rs2 => Encode.r 0x33#7 3#3 0#7 rd rs1 rs2
  | .xor rd rs1 rs2 => Encode.r 0x33#7 4#3 0#7 rd rs1 rs2
  | .srl rd rs1 rs2 => Encode.r 0x33#7 5#3 0#7 rd rs1 rs2
  | .sra rd rs1 rs2 => Encode.r 0x33#7 5#3 0x20#7 rd rs1 rs2
  | .or rd rs1 rs2 => Encode.r 0x33#7 6#3 0#7 rd rs1 rs2
  | .and rd rs1 rs2 => Encode.r 0x33#7 7#3 0#7 rd rs1 rs2
  | .addiw rd rs1 imm => Encode.i 0x1b#7 0#3 rd rs1 imm
  | .slliw rd rs1 shamt => Encode.r 0x1b#7 1#3 0#7 rd rs1 shamt
  | .srliw rd rs1 shamt => Encode.r 0x1b#7 5#3 0#7 rd rs1 shamt
  | .sraiw rd rs1 shamt => Encode.r 0x1b#7 5#3 0x20#7 rd rs1 shamt
  | .addw rd rs1 rs2 => Encode.r 0x3b#7 0#3 0#7 rd rs1 rs2
  | .subw rd rs1 rs2 => Encode.r 0x3b#7 0#3 0x20#7 rd rs1 rs2
  | .sllw rd rs1 rs2 => Encode.r 0x3b#7 1#3 0#7 rd rs1 rs2
  | .srlw rd rs1 rs2 => Encode.r 0x3b#7 5#3 0#7 rd rs1 rs2
  | .sraw rd rs1 rs2 => Encode.r 0x3b#7 5#3 0x20#7 rd rs1 rs2
  | .jal rd imm => Encode.j 0x6f#7 rd imm
  | .jalr rd rs1 imm => Encode.i 0x67#7 0#3 rd rs1 imm
  | .beq rs1 rs2 imm => Encode.b 0x63#7 0#3 rs1 rs2 imm
  | .bne rs1 rs2 imm => Encode.b 0x63#7 1#3 rs1 rs2 imm
  | .blt rs1 rs2 imm => Encode.b 0x63#7 4#3 rs1 rs2 imm
  | .bge rs1 rs2 imm => Encode.b 0x63#7 5#3 rs1 rs2 imm
  | .bltu rs1 rs2 imm => Encode.b 0x63#7 6#3 rs1 rs2 imm
  | .bgeu rs1 rs2 imm => Encode.b 0x63#7 7#3 rs1 rs2 imm
  | .lb rd rs1 imm => Encode.i 0x03#7 0#3 rd rs1 imm
  | .lh rd rs1 imm => Encode.i 0x03#7 1#3 rd rs1 imm
  | .lw rd rs1 imm => Encode.i 0x03#7 2#3 rd rs1 imm
  | .lbu rd rs1 imm => Encode.i 0x03#7 4#3 rd rs1 imm
  | .lhu rd rs1 imm => Encode.i 0x03#7 5#3 rd rs1 imm
  | .lwu rd rs1 imm => Encode.i 0x03#7 6#3 rd rs1 imm
  | .ld rd rs1 imm => Encode.i 0x03#7 3#3 rd rs1 imm
  | .sb rs1 rs2 imm => Encode.s 0x23#7 0#3 rs1 rs2 imm
  | .sh rs1 rs2 imm => Encode.s 0x23#7 1#3 rs1 rs2 imm
  | .sw rs1 rs2 imm => Encode.s 0x23#7 2#3 rs1 rs2 imm
  | .sd rs1 rs2 imm => Encode.s 0x23#7 3#3 rs1 rs2 imm
  | .fence fm pred succ rs1 rd => Encode.i 0x0f#7 0#3 rd rs1 (fm ++ pred ++ succ)
  | .mul rd rs1 rs2 => Encode.r 0x33#7 0#3 1#7 rd rs1 rs2
  | .mulh rd rs1 rs2 => Encode.r 0x33#7 1#3 1#7 rd rs1 rs2
  | .mulhsu rd rs1 rs2 => Encode.r 0x33#7 2#3 1#7 rd rs1 rs2
  | .mulhu rd rs1 rs2 => Encode.r 0x33#7 3#3 1#7 rd rs1 rs2
  | .div rd rs1 rs2 => Encode.r 0x33#7 4#3 1#7 rd rs1 rs2
  | .divu rd rs1 rs2 => Encode.r 0x33#7 5#3 1#7 rd rs1 rs2
  | .rem rd rs1 rs2 => Encode.r 0x33#7 6#3 1#7 rd rs1 rs2
  | .remu rd rs1 rs2 => Encode.r 0x33#7 7#3 1#7 rd rs1 rs2
  | .mulw rd rs1 rs2 => Encode.r 0x3b#7 0#3 1#7 rd rs1 rs2
  | .divw rd rs1 rs2 => Encode.r 0x3b#7 4#3 1#7 rd rs1 rs2
  | .divuw rd rs1 rs2 => Encode.r 0x3b#7 5#3 1#7 rd rs1 rs2
  | .remw rd rs1 rs2 => Encode.r 0x3b#7 6#3 1#7 rd rs1 rs2
  | .remuw rd rs1 rs2 => Encode.r 0x3b#7 7#3 1#7 rd rs1 rs2
  | .lrW rd rs1 aq rl => Encode.amo 2#3 2#5 rd rs1 0#5 aq rl
  | .scW rd rs1 rs2 aq rl => Encode.amo 2#3 3#5 rd rs1 rs2 aq rl
  | .amoswapW rd rs1 rs2 aq rl => Encode.amo 2#3 1#5 rd rs1 rs2 aq rl
  | .amoaddW rd rs1 rs2 aq rl => Encode.amo 2#3 0#5 rd rs1 rs2 aq rl
  | .amoxorW rd rs1 rs2 aq rl => Encode.amo 2#3 4#5 rd rs1 rs2 aq rl
  | .amoandW rd rs1 rs2 aq rl => Encode.amo 2#3 0xc#5 rd rs1 rs2 aq rl
  | .amoorW rd rs1 rs2 aq rl => Encode.amo 2#3 8#5 rd rs1 rs2 aq rl
  | .amominW rd rs1 rs2 aq rl => Encode.amo 2#3 0x10#5 rd rs1 rs2 aq rl
  | .amomaxW rd rs1 rs2 aq rl => Encode.amo 2#3 0x14#5 rd rs1 rs2 aq rl
  | .amominuW rd rs1 rs2 aq rl => Encode.amo 2#3 0x18#5 rd rs1 rs2 aq rl
  | .amomaxuW rd rs1 rs2 aq rl => Encode.amo 2#3 0x1c#5 rd rs1 rs2 aq rl
  | .lrD rd rs1 aq rl => Encode.amo 3#3 2#5 rd rs1 0#5 aq rl
  | .scD rd rs1 rs2 aq rl => Encode.amo 3#3 3#5 rd rs1 rs2 aq rl
  | .amoswapD rd rs1 rs2 aq rl => Encode.amo 3#3 1#5 rd rs1 rs2 aq rl
  | .amoaddD rd rs1 rs2 aq rl => Encode.amo 3#3 0#5 rd rs1 rs2 aq rl
  | .amoxorD rd rs1 rs2 aq rl => Encode.amo 3#3 4#5 rd rs1 rs2 aq rl
  | .amoandD rd rs1 rs2 aq rl => Encode.amo 3#3 0xc#5 rd rs1 rs2 aq rl
  | .amoorD rd rs1 rs2 aq rl => Encode.amo 3#3 8#5 rd rs1 rs2 aq rl
  | .amominD rd rs1 rs2 aq rl => Encode.amo 3#3 0x10#5 rd rs1 rs2 aq rl
  | .amomaxD rd rs1 rs2 aq rl => Encode.amo 3#3 0x14#5 rd rs1 rs2 aq rl
  | .amominuD rd rs1 rs2 aq rl => Encode.amo 3#3 0x18#5 rd rs1 rs2 aq rl
  | .amomaxuD rd rs1 rs2 aq rl => Encode.amo 3#3 0x1c#5 rd rs1 rs2 aq rl
  | .flw rd rs1 imm => Encode.i 0x07#7 2#3 rd rs1 imm
  | .fsw rs1 rs2 imm => Encode.s 0x27#7 2#3 rs1 rs2 imm
  | .fmaddS rd rs1 rs2 rs3 rm => Encode.r4 0x43#7 0#2 rd rs1 rs2 rs3 rm
  | .fmsubS rd rs1 rs2 rs3 rm => Encode.r4 0x47#7 0#2 rd rs1 rs2 rs3 rm
  | .fnmsubS rd rs1 rs2 rs3 rm => Encode.r4 0x4b#7 0#2 rd rs1 rs2 rs3 rm
  | .fnmaddS rd rs1 rs2 rs3 rm => Encode.r4 0x4f#7 0#2 rd rs1 rs2 rs3 rm
  | .faddS rd rs1 rs2 rm => Encode.r 0x53#7 rm 0#7 rd rs1 rs2
  | .fsubS rd rs1 rs2 rm => Encode.r 0x53#7 rm 4#7 rd rs1 rs2
  | .fmulS rd rs1 rs2 rm => Encode.r 0x53#7 rm 8#7 rd rs1 rs2
  | .fdivS rd rs1 rs2 rm => Encode.r 0x53#7 rm 0xc#7 rd rs1 rs2
  | .fsqrtS rd rs1 rm => Encode.r 0x53#7 rm 0x2c#7 rd rs1 0#5
  | .fsgnjS rd rs1 rs2 => Encode.r 0x53#7 0#3 0x10#7 rd rs1 rs2
  | .fsgnjnS rd rs1 rs2 => Encode.r 0x53#7 1#3 0x10#7 rd rs1 rs2
  | .fsgnjxS rd rs1 rs2 => Encode.r 0x53#7 2#3 0x10#7 rd rs1 rs2
  | .fminS rd rs1 rs2 => Encode.r 0x53#7 0#3 0x14#7 rd rs1 rs2
  | .fmaxS rd rs1 rs2 => Encode.r 0x53#7 1#3 0x14#7 rd rs1 rs2
  | .fcvtWS rd rs1 rm => Encode.r 0x53#7 rm 0x60#7 rd rs1 0#5
  | .fcvtWUS rd rs1 rm => Encode.r 0x53#7 rm 0x60#7 rd rs1 1#5
  | .fmvXW rd rs1 => Encode.r 0x53#7 0#3 0x70#7 rd rs1 0#5
  | .feqS rd rs1 rs2 => Encode.r 0x53#7 2#3 0x50#7 rd rs1 rs2
  | .fltS rd rs1 rs2 => Encode.r 0x53#7 1#3 0x50#7 rd rs1 rs2
  | .fleS rd rs1 rs2 => Encode.r 0x53#7 0#3 0x50#7 rd rs1 rs2
  | .fclassS rd rs1 => Encode.r 0x53#7 1#3 0x70#7 rd rs1 0#5
  | .fcvtSW rd rs1 rm => Encode.r 0x53#7 rm 0x68#7 rd rs1 0#5
  | .fcvtSWU rd rs1 rm => Encode.r 0x53#7 rm 0x68#7 rd rs1 1#5
  | .fmvWX rd rs1 => Encode.r 0x53#7 0#3 0x78#7 rd rs1 0#5
  | .fcvtLS rd rs1 rm => Encode.r 0x53#7 rm 0x60#7 rd rs1 2#5
  | .fcvtLUS rd rs1 rm => Encode.r 0x53#7 rm 0x60#7 rd rs1 3#5
  | .fcvtSL rd rs1 rm => Encode.r 0x53#7 rm 0x68#7 rd rs1 2#5
  | .fcvtSLU rd rs1 rm => Encode.r 0x53#7 rm 0x68#7 rd rs1 3#5
  | .fld rd rs1 imm => Encode.i 0x07#7 3#3 rd rs1 imm
  | .fsd rs1 rs2 imm => Encode.s 0x27#7 3#3 rs1 rs2 imm
  | .fmaddD rd rs1 rs2 rs3 rm => Encode.r4 0x43#7 1#2 rd rs1 rs2 rs3 rm
  | .fmsubD rd rs1 rs2 rs3 rm => Encode.r4 0x47#7 1#2 rd rs1 rs2 rs3 rm
  | .fnmsubD rd rs1 rs2 rs3 rm => Encode.r4 0x4b#7 1#2 rd rs1 rs2 rs3 rm
  | .fnmaddD rd rs1 rs2 rs3 rm => Encode.r4 0x4f#7 1#2 rd rs1 rs2 rs3 rm
  | .faddD rd rs1 rs2 rm => Encode.r 0x53#7 rm 1#7 rd rs1 rs2
  | .fsubD rd rs1 rs2 rm => Encode.r 0x53#7 rm 5#7 rd rs1 rs2
  | .fmulD rd rs1 rs2 rm => Encode.r 0x53#7 rm 9#7 rd rs1 rs2
  | .fdivD rd rs1 rs2 rm => Encode.r 0x53#7 rm 0xd#7 rd rs1 rs2
  | .fsqrtD rd rs1 rm => Encode.r 0x53#7 rm 0x2d#7 rd rs1 0#5
  | .fsgnjD rd rs1 rs2 => Encode.r 0x53#7 0#3 0x11#7 rd rs1 rs2
  | .fsgnjnD rd rs1 rs2 => Encode.r 0x53#7 1#3 0x11#7 rd rs1 rs2
  | .fsgnjxD rd rs1 rs2 => Encode.r 0x53#7 2#3 0x11#7 rd rs1 rs2
  | .fminD rd rs1 rs2 => Encode.r 0x53#7 0#3 0x15#7 rd rs1 rs2
  | .fmaxD rd rs1 rs2 => Encode.r 0x53#7 1#3 0x15#7 rd rs1 rs2
  | .fcvtSD rd rs1 rm => Encode.r 0x53#7 rm 0x20#7 rd rs1 1#5
  | .fcvtDS rd rs1 rm => Encode.r 0x53#7 rm 0x21#7 rd rs1 0#5
  | .feqD rd rs1 rs2 => Encode.r 0x53#7 2#3 0x51#7 rd rs1 rs2
  | .fltD rd rs1 rs2 => Encode.r 0x53#7 1#3 0x51#7 rd rs1 rs2
  | .fleD rd rs1 rs2 => Encode.r 0x53#7 0#3 0x51#7 rd rs1 rs2
  | .fclassD rd rs1 => Encode.r 0x53#7 1#3 0x71#7 rd rs1 0#5
  | .fcvtWD rd rs1 rm => Encode.r 0x53#7 rm 0x61#7 rd rs1 0#5
  | .fcvtWUD rd rs1 rm => Encode.r 0x53#7 rm 0x61#7 rd rs1 1#5
  | .fcvtDW rd rs1 rm => Encode.r 0x53#7 rm 0x69#7 rd rs1 0#5
  | .fcvtDWU rd rs1 rm => Encode.r 0x53#7 rm 0x69#7 rd rs1 1#5
  | .fcvtLD rd rs1 rm => Encode.r 0x53#7 rm 0x61#7 rd rs1 2#5
  | .fcvtLUD rd rs1 rm => Encode.r 0x53#7 rm 0x61#7 rd rs1 3#5
  | .fmvXD rd rs1 => Encode.r 0x53#7 0#3 0x71#7 rd rs1 0#5
  | .fcvtDL rd rs1 rm => Encode.r 0x53#7 rm 0x69#7 rd rs1 2#5
  | .fcvtDLU rd rs1 rm => Encode.r 0x53#7 rm 0x69#7 rd rs1 3#5
  | .fmvDX rd rs1 => Encode.r 0x53#7 0#3 0x79#7 rd rs1 0#5
  | .csrrw rd rs1 csr => Encode.i 0x73#7 1#3 rd rs1 csr
  | .csrrs rd rs1 csr => Encode.i 0x73#7 2#3 rd rs1 csr
  | .csrrc rd rs1 csr => Encode.i 0x73#7 3#3 rd rs1 csr
  | .csrrwi rd uimm csr => Encode.i 0x73#7 5#3 rd uimm csr
  | .csrrsi rd uimm csr => Encode.i 0x73#7 6#3 rd uimm csr
  | .csrrci rd uimm csr => Encode.i 0x73#7 7#3 rd uimm csr
  | .fenceI imm rs1 rd => Encode.i 0x0f#7 1#3 rd rs1 imm
  | .ecall => Encode.r 0x73#7 0#3 0#7 0#5 0#5 0#5
  | .ebreak => Encode.r 0x73#7 0#3 0#7 0#5 0#5 1#5
  | .mret => Encode.r 0x73#7 0#3 0x18#7 0#5 0#5 2#5
  | .sret => Encode.r 0x73#7 0#3 8#7 0#5 0#5 2#5
  | .wfi => Encode.r 0x73#7 0#3 8#7 0#5 0#5 5#5
  | .sfenceVma rs1 rs2 => Encode.r 0x73#7 0#3 9#7 0#5 rs1 rs2
  | .cAddi4spn rd nzuimm => Encode.c 0#2 0#3 (slice nzuimm 3 1) (slice nzuimm 2 1 ++ slice nzuimm 7 1) (slice nzuimm 4 3)
      (slice nzuimm 0 1 ++ slice nzuimm 1 1) rd
  | .cFld rd rs1 uimm => Encode.clD 1#3 rd rs1 uimm
  | .cLw rd rs1 uimm => Encode.clW 2#3 rd rs1 uimm
  | .cLd rd rs1 uimm => Encode.clD 3#3 rd rs1 uimm
  | .cFsd rs1 rs2 uimm => Encode.clD 5#3 rs2 rs1 uimm
  | .cSw rs1 rs2 uimm => Encode.clW 6#3 rs2 rs1 uimm
  | .cSd rs1 rs2 uimm => Encode.clD 7#3 rs2 rs1 uimm
  | .cNop imm => Encode.ci 1#2 0#3 0#5 imm
  | .cAddi rd imm => Encode.ci 1#2 0#3 rd imm
  | .cAddiw rd imm => Encode.ci 1#2 1#3 rd imm
  | .cLi rd imm => Encode.ci 1#2 2#3 rd imm
  | .cAddi16sp nzimm => Encode.c 1#2 3#3 (slice nzimm 5 1) 0#2 2#3 (slice nzimm 0 1 ++ slice nzimm 2 1)
      (slice nzimm 3 2 ++ slice nzimm 1 1)
  | .cLui rd nzimm => Encode.ci 1#2 3#3 rd nzimm
  | .cSrli rd shamt => Encode.cbAlu 0#2 rd shamt
  | .cSrai rd shamt => Encode.cbAlu 1#2 rd shamt
  | .cAndi rd imm => Encode.cbAlu 2#2 rd imm
  | .cSub rd rs2 => Encode.ca 0#1 0#2 rd rs2
  | .cXor rd rs2 => Encode.ca 0#1 1#2 rd rs2
  | .cOr rd rs2 => Encode.ca 0#1 2#2 rd rs2
  | .cAnd rd rs2 => Encode.ca 0#1 3#2 rd rs2
  | .cSubw rd rs2 => Encode.ca 1#1 0#2 rd rs2
  | .cAddw rd rs2 => Encode.ca 1#1 1#2 rd rs2
  | .cJ imm => Encode.c 1#2 5#3 (slice imm 10 1) (slice imm 3 1 ++ slice imm 8 1)
      (slice imm 7 1 ++ slice imm 9 1 ++ slice imm 5 1) (slice imm 6 1 ++ slice imm 2 1) (slice imm 0 2 ++ slice imm 4 1)
  | .cBeqz rs1 imm => Encode.cb 6#3 rs1 imm
  | .cBnez rs1 imm => Encode.cb 7#3 rs1 imm
  | .cSlli rd shamt => Encode.ci 2#2 0#3 rd shamt
  | .cFldsp rd uimm => Encode.ldsp 1#3 rd uimm
  | .cLwsp rd uimm => Encode.c 2#2 2#3 (slice uimm 3 1) (slice rd 3 2) (slice rd 0 3) (slice uimm 1 2)
      (slice uimm 0 1 ++ slice uimm 4 2)
  | .cLdsp rd uimm => Encode.ldsp 3#3 rd uimm
  | .cJr rs1 => Encode.cr 0#1 rs1 0#5
  | .cMv rd rs2 => Encode.cr 0#1 rd rs2
  | .cEbreak => Encode.cr 1#1 0#5 0#5
  | .cJalr rs1 => Encode.cr 1#1 rs1 0#5
  | .cAdd rd rs2 => Encode.cr 1#1 rd rs2
  | .cFsdsp rs2 uimm => Encode.sdsp 5#3 rs2 uimm
  | .cSwsp rs2 uimm => Encode.c 2#2 6#3 (slice uimm 3 1) (slice uimm 1 2) (slice uimm 0 1 ++ slice uimm 4 2) (slice rs2 3 2)
      (slice rs2 0 3)
  | .cSdsp rs2 uimm => Encode.sdsp 7#3 rs2 uimm

/-- The bytes of an encoded instruction as the hardware stores them: little-endian parcels, the first at the lowest
address (20_memory R221). -/
def Encoded.bytes : Encoded → List Byte
  | .half w => bytesOfParcel w
  | .word w => bytesOfParcel (slice w 0 16) ++ bytesOfParcel (slice w 16 16)

/-- The instruction's own bits as the trap value of an illegal-instruction exception (60_exceptions R811; DEDUCED, entry 9: an
instruction determines its word). -/
def Instr.trapValue (i : Instr) : Word := (encode i).trapValue

/-- The instruction's length in bytes (30_encoding R301). -/
def Instr.ilen (i : Instr) : Nat := (encode i).ilen

/-! ## The opcode table's numbering -/

/-- The low `n` bytes of a number, least significant first. -/
def bytesLE : Nat → Nat → List Byte
  | 0, _ => []
  | n + 1, w => BitVec.ofNat 8 w :: bytesLE n (w / 256)

/-- The instruction the decoder reads from the word `w` whose low `nbits` bits the opcode table numbers; every bit above
`nbits` is 0. -/
def decodeTableWord (nbits w : Nat) : Option Instr :=
  match decodeBytes (bytesLE 4 (w % 2 ^ nbits)) with
  | .ok i _ => some i
  | .rejected _ => none

end Sys2Proof
end

