-- ==== Sys2Proof/Machine/Bits.lean ====
section
/-! DEFINITION. Bit fields of 64-bit registers: setting one bit or one two-bit field, sign and zero extension (spec/00_scope.md
notation: `sext_64`, `zext_64`). -/

namespace Sys2Proof.Machine

open Sys2Proof

/-- The word with bit `i` made `b`. -/
def setBit (w : Word) (i : Nat) (b : Bool) : Word :=
  if b then w ||| (1#64 <<< i) else w &&& ~~~(1#64 <<< i)

/-- The word with bits `i+1 .. i` made `v`. -/
def setField2 (w : Word) (i : Nat) (v : BitVec 2) : Word :=
  (w &&& ~~~(3#64 <<< i)) ||| (v.zeroExtend 64 <<< i)

/-- The word with the bits of `mask` taken from `new` and the others from `old`: `(old & ~mask) | (new & mask)`. -/
def mergeMask (mask old new : Word) : Word := (old &&& ~~~mask) ||| (new &&& mask)

/-- `sext_64`. -/
abbrev sext64 {n : Nat} (v : BitVec n) : Word := v.signExtend 64

/-- `zext_64`. -/
abbrev zext64 {n : Nat} (v : BitVec n) : Word := v.zeroExtend 64

/-- The low 32 bits. -/
abbrev low32 (v : Word) : BitVec 32 := slice v 0 32

/-- 0 or 1. -/
def boolWord (b : Bool) : Word := if b then 1#64 else 0#64

/-- The sign extension of the low 32 bits: the result of every W form. -/
def sextLow32 (v : Word) : Word := sext64 (slice v 0 32)

end Sys2Proof.Machine
end

