-- ==== Sys2Proof/Machine/Float.lean ====
section
/-! DEFINITION. IEEE 754 arithmetic on binary32 and binary64 (spec/45_f_single.md R550 to R558, spec/46_d_double.md R600):
operands are unpacked to exact numbers, the operation is exact, and one rounding packs the result. -/

namespace Sys2Proof.Machine

open Sys2Proof

/-- The two formats (45_f_single R557, 46_d_double R600). A pattern stands in the low bits of a `Word`. -/
inductive FloatFmt where
  | single
  | double
  deriving DecidableEq, Repr

/-- Fraction bits. -/
def FloatFmt.manBits : FloatFmt → Nat
  | .single => 23
  | .double => 52

/-- Exponent bits. -/
def FloatFmt.expBits : FloatFmt → Nat
  | .single => 8
  | .double => 11

/-- Precision: the fraction bits and the hidden bit. -/
def FloatFmt.prec (fmt : FloatFmt) : Nat := fmt.manBits + 1

/-- The exponent of the least significant bit of a subnormal: -149 or -1074. -/
def FloatFmt.minExp : FloatFmt → Int
  | .single => -149
  | .double => -1074

/-- The all-ones exponent field of infinities and NaNs. -/
def FloatFmt.maxField (fmt : FloatFmt) : Nat := 2 ^ fmt.expBits - 1

/-- The canonical quiet NaN (45_f_single R551). -/
def FloatFmt.canonicalNan : FloatFmt → Word
  | .single => 0x7FC00000#64
  | .double => 0x7FF8000000000000#64

/-- The position of the sign bit. -/
def FloatFmt.signPos (fmt : FloatFmt) : Nat := fmt.manBits + fmt.expBits

/-- The sign bit as a mask. -/
def FloatFmt.signMask (fmt : FloatFmt) : Word := 1#64 <<< fmt.signPos

/-- Rounding modes (45_f_single R552). -/
inductive RoundingMode where
  | rne
  | rtz
  | rdn
  | rup
  | rmm
  deriving DecidableEq, Repr

/-- The rounding mode of a three-bit number; 5, 6 and 7 name none (10_state R49, 45_f_single R552). -/
def RoundingMode.ofBits (b : BitVec 3) : Option RoundingMode :=
  match b with
  | 0#3 => some .rne
  | 1#3 => some .rtz
  | 2#3 => some .rdn
  | 3#3 => some .rup
  | 4#3 => some .rmm
  | _ => none

/-- The exception flags `{NV, DZ, OF, UF, NX}` = bits 4, 3, 2, 1, 0 (45_f_single R553). -/
abbrev FFlags := BitVec 5

def FFlags.none : FFlags := 0#5
def FFlags.nv : FFlags := 0x10#5
def FFlags.dz : FFlags := 0x08#5
def FFlags.of : FFlags := 0x04#5
def FFlags.uf : FFlags := 0x02#5
def FFlags.nx : FFlags := 0x01#5

/-- What a pattern stands for (45_f_single R557): `finite neg m e` is `(-1)^neg * m * 2^e`. -/
inductive FVal where
  | nan (signaling : Bool)
  | inf (neg : Bool)
  | finite (neg : Bool) (m : Nat) (e : Int)
  deriving DecidableEq, Repr

/-- Unpacks a pattern (45_f_single R557, 46_d_double R600; signaling NaN: R551). -/
def unpack (fmt : FloatFmt) (w : Word) : FVal :=
  let man := w.toNat % 2 ^ fmt.manBits
  let exp := w.toNat / 2 ^ fmt.manBits % 2 ^ fmt.expBits
  let neg := w.getLsbD fmt.signPos
  if exp = fmt.maxField then
    if man = 0 then .inf neg else .nan (decide (man < 2 ^ (fmt.manBits - 1)))
  else if exp = 0 then .finite neg man fmt.minExp
  else .finite neg (2 ^ fmt.manBits + man) (fmt.minExp + (exp - 1 : Nat))

/-- The pattern with these fields. -/
def packFields (fmt : FloatFmt) (neg : Bool) (exp man : Nat) : Word :=
  BitVec.ofNat 64 ((if neg then 2 ^ fmt.signPos else 0) + exp * 2 ^ fmt.manBits + man)

/-- The infinity of a sign. -/
def packInf (fmt : FloatFmt) (neg : Bool) : Word := packFields fmt neg fmt.maxField 0

/-- The zero of a sign. -/
def packZero (fmt : FloatFmt) (neg : Bool) : Word := packFields fmt neg 0 0

/-- Whether an inexact quotient is rounded away from zero; `odd`: the truncated quotient is odd; `vsHalf`: the remainder
compared with one half (45_f_single R552). -/
def roundsUp (rm : RoundingMode) (neg odd : Bool) (vsHalf : Ordering) : Bool :=
  match rm with
  | .rne => vsHalf == .gt || (vsHalf == .eq && odd)
  | .rtz => false
  | .rdn => neg
  | .rup => !neg
  | .rmm => vsHalf != .lt

/-- `m / 2^d` rounded to an integer, and whether that was inexact. -/
def roundShift (rm : RoundingMode) (neg : Bool) (m d : Nat) : Nat × Bool :=
  let q := m / 2 ^ d
  let r := m % 2 ^ d
  if r = 0 then (q, false)
  else (if roundsUp rm neg (decide (q % 2 = 1)) (compare (2 * r) (2 ^ d)) then q + 1 else q, true)

/-- `m * 2^e` rounded to a multiple of `2^q`, as that multiple, and whether that was inexact. -/
def roundAt (rm : RoundingMode) (neg : Bool) (m : Nat) (e q : Int) : Nat × Bool :=
  if q ≤ e then (m * 2 ^ (e - q).toNat, false) else roundShift rm neg m (q - e).toNat

/-- The number of significant bits. -/
def bitLength (m : Nat) : Nat := if m = 0 then 0 else m.log2 + 1

/-- The result of an overflow: infinity or the largest finite number, by the rounding mode (45_f_single R553, R566). -/
def overflowResult (fmt : FloatFmt) (rm : RoundingMode) (neg : Bool) : Word :=
  let toInf := match rm with
    | .rne | .rmm => true
    | .rtz => false
    | .rdn => neg
    | .rup => !neg
  if toInf then packInf fmt neg else packFields fmt neg (fmt.maxField - 1) (2 ^ fmt.manBits - 1)

/-- Rounds the exact number `(-1)^neg * m * 2^e` into the format. Overflow comes with inexact; underflow is raised when the
result is tiny after rounding and inexact (45_f_single R553). -/
def roundPack (fmt : FloatFmt) (rm : RoundingMode) (neg : Bool) (m : Nat) (e : Int) : Word × FFlags :=
  if m = 0 then (packZero fmt neg, .none)
  else
    let qFree : Int := e + (bitLength m : Int) - (fmt.prec : Int)
    let q : Int := max qFree fmt.minExp
    let (r, inexact) := roundAt rm neg m e q
    -- The same rounding with an unbounded exponent decides tininess.
    let free := (roundAt rm neg m e qFree).1
    let tiny := decide (qFree < fmt.minExp) && !(decide (qFree = fmt.minExp - 1) && decide (free = 2 ^ fmt.prec))
    let carried := decide (r = 2 ^ fmt.prec)
    let man := if carried then 2 ^ fmt.manBits else r
    let exp := if man < 2 ^ fmt.manBits then 0 else (q - fmt.minExp).toNat + 1 + (if carried then 1 else 0)
    if fmt.maxField ≤ exp then (overflowResult fmt rm neg, FFlags.of ||| FFlags.nx)
    else
      (packFields fmt neg exp (man % 2 ^ fmt.manBits),
        if inexact then (if tiny then FFlags.uf ||| FFlags.nx else FFlags.nx) else FFlags.none)

/-- Invalid operation: the canonical NaN and NV (45_f_single R555). -/
def invalidResult (fmt : FloatFmt) : Word × FFlags := (fmt.canonicalNan, .nv)

/-- The result when some operand is a NaN: the canonical NaN, with NV if one is signaling (45_f_single R551, R555). -/
def nanResult (fmt : FloatFmt) (signaling : Bool) : Word × FFlags :=
  (fmt.canonicalNan, if signaling then .nv else .none)

/-- Whether a value is a NaN. -/
def FVal.isNan : FVal → Bool
  | .nan _ => true
  | _ => false

/-- Whether a value is a signaling NaN. -/
def FVal.isSnan : FVal → Bool
  | .nan s => s
  | _ => false

/-- The number as a multiple of `2^e0`, for `e0` not above its exponent. -/
def scaled (neg : Bool) (m : Nat) (e e0 : Int) : Int :=
  if neg then -((m * 2 ^ (e - e0).toNat : Nat) : Int) else ((m * 2 ^ (e - e0).toNat : Nat) : Int)

/-- The sum of two finite numbers, rounded once. An exact zero sum is `+0`, `-0` under RDN, and keeps the common sign of two
zeros (45_f_single R555). -/
def addFinite (fmt : FloatFmt) (rm : RoundingMode) (n1 : Bool) (m1 : Nat) (e1 : Int) (n2 : Bool) (m2 : Nat) (e2 : Int) :
    Word × FFlags :=
  let e0 := min e1 e2
  let t := scaled n1 m1 e1 e0 + scaled n2 m2 e2 e0
  if t = 0 then (packZero fmt (if n1 = n2 then n1 else decide (rm = .rdn)), .none)
  else roundPack fmt rm (decide (t < 0)) t.natAbs e0

/-- The sum of two values. -/
def addVal (fmt : FloatFmt) (rm : RoundingMode) (a b : FVal) : Word × FFlags :=
  match a, b with
  | .nan s, _ => nanResult fmt (s || b.isSnan)
  | _, .nan s => nanResult fmt s
  | .inf n1, .inf n2 => if n1 = n2 then (packInf fmt n1, .none) else invalidResult fmt
  | .inf n, .finite .. => (packInf fmt n, .none)
  | .finite .., .inf n => (packInf fmt n, .none)
  | .finite n1 m1 e1, .finite n2 m2 e2 => addFinite fmt rm n1 m1 e1 n2 m2 e2

/-- `fadd(m, a, b)` (45_f_single R555). -/
def fadd (fmt : FloatFmt) (rm : RoundingMode) (a b : Word) : Word × FFlags := addVal fmt rm (unpack fmt a) (unpack fmt b)

/-- `fsub(m, a, b)`: the sum with the sign of `b` flipped (45_f_single R555, R567). -/
def fsub (fmt : FloatFmt) (rm : RoundingMode) (a b : Word) : Word × FFlags := fadd fmt rm a (b ^^^ fmt.signMask)

/-- `fmul(m, a, b)` (45_f_single R555, R568). -/
def fmul (fmt : FloatFmt) (rm : RoundingMode) (a b : Word) : Word × FFlags :=
  match unpack fmt a, unpack fmt b with
  | .nan s, vb => nanResult fmt (s || vb.isSnan)
  | _, .nan s => nanResult fmt s
  | .inf n1, .inf n2 => (packInf fmt (n1 != n2), .none)
  | .inf n1, .finite n2 m _ => if m = 0 then invalidResult fmt else (packInf fmt (n1 != n2), .none)
  | .finite n1 m _, .inf n2 => if m = 0 then invalidResult fmt else (packInf fmt (n1 != n2), .none)
  | .finite n1 m1 e1, .finite n2 m2 e2 => roundPack fmt rm (n1 != n2) (m1 * m2) (e1 + e2)

/-- `fma(m, a, b, c) = a*b + c` with one rounding; `0 * inf` is invalid even when `c` is a quiet NaN (45_f_single R555). -/
def fma (fmt : FloatFmt) (rm : RoundingMode) (a b c : Word) : Word × FFlags :=
  match unpack fmt a, unpack fmt b, unpack fmt c with
  | .nan s, vb, vc => nanResult fmt (s || vb.isSnan || vc.isSnan)
  | _, .nan s, vc => nanResult fmt (s || vc.isSnan)
  | .inf n1, .inf n2, vc => addVal fmt rm (.inf (n1 != n2)) vc
  | .inf n1, .finite n2 m _, vc => if m = 0 then invalidResult fmt else addVal fmt rm (.inf (n1 != n2)) vc
  | .finite n1 m _, .inf n2, vc => if m = 0 then invalidResult fmt else addVal fmt rm (.inf (n1 != n2)) vc
  | .finite n1 m1 e1, .finite n2 m2 e2, vc => addVal fmt rm (.finite (n1 != n2) (m1 * m2) (e1 + e2)) vc

/-- `fdiv(m, a, b)` (45_f_single R555, R569). The quotient is taken with more than `prec + 2` bits and a last bit that says
whether anything remains, which rounds as the exact quotient does. -/
def fdiv (fmt : FloatFmt) (rm : RoundingMode) (a b : Word) : Word × FFlags :=
  match unpack fmt a, unpack fmt b with
  | .nan s, vb => nanResult fmt (s || vb.isSnan)
  | _, .nan s => nanResult fmt s
  | .inf _, .inf _ => invalidResult fmt
  | .inf n1, .finite n2 _ _ => (packInf fmt (n1 != n2), .none)
  | .finite n1 _ _, .inf n2 => (packZero fmt (n1 != n2), .none)
  | .finite n1 m1 e1, .finite n2 m2 e2 =>
    if m2 = 0 then
      if m1 = 0 then invalidResult fmt else (packInf fmt (n1 != n2), .dz)
    else
      let k := fmt.prec + 2 + bitLength m2
      let num := m1 * 2 ^ k
      roundPack fmt rm (n1 != n2) (2 * (num / m2) + (if num % m2 = 0 then 0 else 1)) (e1 - e2 - (k : Int) - 1)

/-- The integer square root below `2^i`, added to `r`, bit by bit: the largest `r + x` with `x < 2^i` whose square is at
most `n`. -/
def isqrtBits (n : Nat) : Nat → Nat → Nat
  | 0, r => r
  | i + 1, r => isqrtBits n i (if (r + 2 ^ i) * (r + 2 ^ i) ≤ n then r + 2 ^ i else r)

/-- The integer square root. -/
def isqrt (n : Nat) : Nat := isqrtBits n (bitLength n / 2 + 1) 0

/-- `fsqrt(m, a)` (45_f_single R555, R570), with the same last bit as `fdiv`. -/
def fsqrt (fmt : FloatFmt) (rm : RoundingMode) (a : Word) : Word × FFlags :=
  match unpack fmt a with
  | .nan s => nanResult fmt s
  | .inf neg => if neg then invalidResult fmt else (packInf fmt false, .none)
  | .finite neg m e =>
    if m = 0 then (packZero fmt neg, .none)
    else if neg then invalidResult fmt
    else
      let k := 2 * (fmt.prec + 2) + (e % 2).toNat
      let n := m * 2 ^ k
      let r := isqrt n
      roundPack fmt rm false (2 * r + (if r * r = n then 0 else 1)) ((e - (k : Int)) / 2 - 1)

/-! ## Comparison, minimum, maximum, classification -/

/-- `a < b` as numbers; false when either is a NaN (45_f_single R580). -/
def FVal.lt (a b : FVal) : Bool :=
  match a, b with
  | .nan _, _ => false
  | _, .nan _ => false
  | .inf n1, .inf n2 => n1 && !n2
  | .inf n1, .finite .. => n1
  | .finite .., .inf n2 => !n2
  | .finite n1 m1 e1, .finite n2 m2 e2 => decide (scaled n1 m1 e1 (min e1 e2) < scaled n2 m2 e2 (min e1 e2))

/-- `a = b` as numbers: `+0` equals `-0`; false when either is a NaN (45_f_single R579). -/
def FVal.eq (a b : FVal) : Bool := !a.isNan && !b.isNan && !a.lt b && !b.lt a

/-- The flags of a comparison that only a signaling NaN makes invalid. -/
def quietFlags (a b : FVal) : FFlags := if a.isSnan || b.isSnan then .nv else .none

/-- The flags of a comparison that any NaN makes invalid. -/
def signalingFlags (a b : FVal) : FFlags := if a.isNan || b.isNan then .nv else .none

/-- `feq(a, b)` (45_f_single R579). -/
def feq (fmt : FloatFmt) (a b : Word) : Word × FFlags :=
  (boolWord ((unpack fmt a).eq (unpack fmt b)), quietFlags (unpack fmt a) (unpack fmt b))

/-- `flt(a, b)` (45_f_single R580). -/
def flt (fmt : FloatFmt) (a b : Word) : Word × FFlags :=
  (boolWord ((unpack fmt a).lt (unpack fmt b)), signalingFlags (unpack fmt a) (unpack fmt b))

/-- `fle(a, b)` (45_f_single R581). -/
def fle (fmt : FloatFmt) (a b : Word) : Word × FFlags :=
  (boolWord ((unpack fmt a).lt (unpack fmt b) || (unpack fmt a).eq (unpack fmt b)),
    signalingFlags (unpack fmt a) (unpack fmt b))

/-- Whether `a` comes before `b` in the order of `FMIN` and `FMAX`: smaller, or `-0` before `+0` (45_f_single R574). -/
def precedes (fmt : FloatFmt) (a b : Word) : Bool :=
  (unpack fmt a).lt (unpack fmt b) ||
    ((unpack fmt a).eq (unpack fmt b) && a.getLsbD fmt.signPos && !b.getLsbD fmt.signPos)

/-- The result of `FMIN` and `FMAX` for operands of which one may be a NaN; `pick` chooses between two numbers
(45_f_single R574, R575). -/
def minMax (fmt : FloatFmt) (a b pick : Word) : Word × FFlags :=
  let va := unpack fmt a
  let vb := unpack fmt b
  (if va.isNan && vb.isNan then fmt.canonicalNan else if va.isNan then b else if vb.isNan then a else pick,
    quietFlags va vb)

/-- `fmin(a, b)` (45_f_single R574). -/
def fmin (fmt : FloatFmt) (a b : Word) : Word × FFlags := minMax fmt a b (if precedes fmt b a then b else a)

/-- `fmax(a, b)` (45_f_single R575). -/
def fmax (fmt : FloatFmt) (a b : Word) : Word × FFlags := minMax fmt a b (if precedes fmt a b then b else a)

/-- `fclass(a)`: the 10-bit mask of 45_f_single R582. -/
def fclass (fmt : FloatFmt) (a : Word) : Word :=
  match unpack fmt a with
  | .inf true => 0x001#64
  | .inf false => 0x080#64
  | .nan true => 0x100#64
  | .nan false => 0x200#64
  | .finite neg m _ =>
    if m = 0 then (if neg then 0x008#64 else 0x010#64)
    else if m < 2 ^ fmt.manBits then (if neg then 0x004#64 else 0x020#64)
    else (if neg then 0x002#64 else 0x040#64)

/-! ## Sign injection -/

/-- The magnitude of `a` with the sign `neg` (45_f_single R571 to R573). -/
def withSign (fmt : FloatFmt) (a : Word) (neg : Bool) : Word := setBit a fmt.signPos neg

/-- `FSGNJ`: the sign of `b`. -/
def fsgnj (fmt : FloatFmt) (a b : Word) : Word := withSign fmt a (b.getLsbD fmt.signPos)

/-- `FSGNJN`: the opposite of the sign of `b`. -/
def fsgnjn (fmt : FloatFmt) (a b : Word) : Word := withSign fmt a (!b.getLsbD fmt.signPos)

/-- `FSGNJX`: the exclusive or of both signs. -/
def fsgnjx (fmt : FloatFmt) (a b : Word) : Word :=
  withSign fmt a (a.getLsbD fmt.signPos != b.getLsbD fmt.signPos)

/-! ## Conversions -/

/-- An integer destination (45_f_single R558). -/
inductive IntFmt where
  | w
  | wu
  | l
  | lu
  deriving DecidableEq, Repr

/-- The least integer of a destination. -/
def IntFmt.lo : IntFmt → Int
  | .w => -2 ^ 31
  | .wu => 0
  | .l => -2 ^ 63
  | .lu => 0

/-- The greatest integer of a destination. -/
def IntFmt.hi : IntFmt → Int
  | .w => 2 ^ 31 - 1
  | .wu => 2 ^ 32 - 1
  | .l => 2 ^ 63 - 1
  | .lu => 2 ^ 64 - 1

/-- An integer as it is written to `x[rd]`: 32-bit results, signed or unsigned, are sign-extended from bit 31
(45_f_single R558). -/
def IntFmt.toWord (t : IntFmt) (v : Int) : Word :=
  match t with
  | .w | .wu => sext64 (BitVec.ofInt 32 v)
  | .l | .lu => BitVec.ofInt 64 v

/-- The integer an `x` register gives as the source of a conversion: W and WU use bits 31:0 (45_f_single R583). -/
def IntFmt.ofWord (t : IntFmt) (v : Word) : Int :=
  match t with
  | .w => (slice v 0 32).toInt
  | .wu => (slice v 0 32).toNat
  | .l => v.toInt
  | .lu => v.toNat

/-- `f_to_int(m, a, signed, width)`: round, then test the range (45_f_single R558). -/
def fToInt (fmt : FloatFmt) (t : IntFmt) (rm : RoundingMode) (a : Word) : Word × FFlags :=
  match unpack fmt a with
  | .nan _ => (t.toWord t.hi, .nv)
  | .inf neg => (t.toWord (if neg then t.lo else t.hi), .nv)
  | .finite neg m e =>
    let (r, inexact) := roundAt rm neg m e 0
    let v : Int := if neg then -(r : Int) else (r : Int)
    if v < t.lo then (t.toWord t.lo, .nv)
    else if t.hi < v then (t.toWord t.hi, .nv)
    else (t.toWord v, if inexact then .nx else .none)

/-- `int_to_f(m, n, signed, width)` (45_f_single R555, R583). -/
def intToF (fmt : FloatFmt) (t : IntFmt) (rm : RoundingMode) (v : Word) : Word × FFlags :=
  let n := t.ofWord v
  roundPack fmt rm (decide (n < 0)) n.natAbs 0

/-- Conversion between the two formats (46_d_double R626, R627). -/
def fToF (src dst : FloatFmt) (rm : RoundingMode) (a : Word) : Word × FFlags :=
  match unpack src a with
  | .nan s => nanResult dst s
  | .inf neg => (packInf dst neg, .none)
  | .finite neg m e => roundPack dst rm neg m e

/-! ## NaN boxing (45_f_single R550) -/

/-- `box_S(s)`: the 32-bit pattern in the low word, all ones above. -/
def boxS (v : Word) : Word := 0xFFFFFFFF#32 ++ slice v 0 32

/-- `unbox_S(v)`: the low word, or the canonical NaN if the upper word is not all ones. -/
def unboxS (v : Word) : Word := if slice v 32 32 = 0xFFFFFFFF#32 then zext64 (slice v 0 32) else 0x7FC00000#64

end Sys2Proof.Machine
end

