-- ==== Sys2Proof/Config.lean ====
section
/-! DEFINITION. What an implementation fixes: the parameters of the step relation of spec/10_state.md R118, as plain data. -/

namespace Sys2Proof

/-- The kind of a PMA entry (10_state R110): memory, or one of the two devices of this spec. -/
inductive PmaKind where
  | memory
  | clint
  | htif
  deriving DecidableEq, Repr

/-- One entry of the PMA map (10_state R110): `length` bytes from `start`, with its flags, device tag and kind. -/
structure PmaEntry where
  start  : Nat
  length : Nat
  kind   : PmaKind
  r      : Bool
  w      : Bool
  x      : Bool
  ir     : Bool
  iw     : Bool
  did    : Nat
  deriving DecidableEq, Repr

/-- The flags of a PMA entry (10_state R110): parameters of each range (20_memory R211). -/
structure PmaFlags where
  r  : Bool
  w  : Bool
  x  : Bool
  ir : Bool
  iw : Bool
  deriving DecidableEq, Repr

/-- The parameters of the step relation (10_state R118), fixed when the machine is constructed (R120). -/
structure Config where
  /-- The PMA map, in order (10_state R110, 20_memory R211). -/
  pma         : List PmaEntry
  /-- `RTC_FREQ_DIV` (10_state R101). -/
  rtcFreqDiv  : Nat
  /-- `MVENDORID` (10_state R65). -/
  mvendorid   : Word
  /-- `MARCHID` (10_state R66). -/
  marchid     : Word
  /-- `MIMPID` (10_state R67). -/
  mimpid      : Word
  /-- The HTIF halt-command enable mask (10_state R105). -/
  ihalt       : Word
  /-- The HTIF console-command enable mask (10_state R105). -/
  iconsole    : Word
  /-- The HTIF yield-command enable mask (10_state R105). -/
  iyield      : Word
  /-- The `interactive` switch (10_state R118, 60_exceptions R882). -/
  interactive : Bool
  deriving DecidableEq, Repr

namespace Config

/-- The length of RAM. DESIGN CHOICE (entry 1), unsafe: 20_memory R211 leaves `RAM_LENGTH` a parameter. -/
def ramLength : Nat := 0x100000

/-- The default flags of ROM (20_memory R211, 92 D30). -/
def romFlags : PmaFlags := { r := true, w := false, x := true, ir := true, iw := true }

/-- The default flags of the CLINT and of the HTIF (20_memory R211, 92 D30). -/
def deviceFlags : PmaFlags := { r := true, w := true, x := false, ir := false, iw := false }

/-- The default flags of RAM (20_memory R211, 92 D30). -/
def ramFlags : PmaFlags := { r := true, w := true, x := true, ir := true, iw := true }

/-- The default flags of a flash drive (20_memory R211, 92 D30). -/
def flashFlags : PmaFlags := { r := true, w := true, x := false, ir := true, iw := true }

/-- The entry of a range with these flags (20_memory R211). -/
def entry (kind : PmaKind) (did start length : Nat) (g : PmaFlags) : PmaEntry :=
  { start, length, kind, r := g.r, w := g.w, x := g.x, ir := g.ir, iw := g.iw, did }

/-- ROM. The spec gives no device tag (`DID`) for any range; those of this file are DESIGN CHOICE (entry 18), unsafe, and no
rule reads them: ROM 0, CLINT 1, HTIF 2, RAM 3, flash drive `k` 4 + `k`. -/
def romEntry (start length : Nat) (g : PmaFlags) : PmaEntry := entry .memory 0 start length g

/-- The CLINT. Its `DID` is DESIGN CHOICE (entry 18). -/
def clintEntry (start length : Nat) (g : PmaFlags) : PmaEntry := entry .clint 1 start length g

/-- The HTIF. Its `DID` is DESIGN CHOICE (entry 18). -/
def htifEntry (start length : Nat) (g : PmaFlags) : PmaEntry := entry .htif 2 start length g

/-- RAM. Its `DID` is DESIGN CHOICE (entry 18). -/
def ramEntry (start length : Nat) (g : PmaFlags) : PmaEntry := entry .memory 3 start length g

/-- Flash drive `k`. Its `DID` is DESIGN CHOICE (entry 18). -/
def flashEntry (k start length : Nat) (g : PmaFlags) : PmaEntry := entry .memory (4 + k) start length g

/-- The default PMA map of 20_memory R211, without flash drives (DESIGN CHOICE, entry 3). The `DID` tags of its entries are
DESIGN CHOICE (entry 18): no rule gives their values. -/
def defaultPma : List PmaEntry :=
  [romEntry 0x1000 0xF000 romFlags, clintEntry 0x2000000 0xC0000 deviceFlags, htifEntry 0x40008000 0x1000 deviceFlags,
    ramEntry 0x80000000 ramLength ramFlags]

/-- The defaults of 10_state R65 to R67, R101, R121 and 20_memory R211.
`marchid` and `mimpid` are DESIGN CHOICE (entry 2), unsafe: no source gives them. -/
def default : Config where
  pma         := defaultPma
  rtcFreqDiv  := 100
  mvendorid   := 0x6361727465736920#64
  marchid     := 0#64
  mimpid      := 0#64
  ihalt       := 0x1#64
  iconsole    := 0x2#64
  iyield      := 0x0#64
  interactive := false

end Config
end Sys2Proof
end

