-- ==== Sys2Proof/Machine/State.lean ====
section
/-! DEFINITION. The state of the machine as plain data (spec/10_state.md), its reasons to stop, and the state after reset. -/

namespace Sys2Proof.Machine

open Sys2Proof

/-- A privilege mode (10_state R91, 60_exceptions R850). -/
inductive Priv where
  | user
  | supervisor
  | machine
  deriving DecidableEq, Repr

/-- Physical memory: the bytes that differ from what an unlisted address reads as, addresses strictly rising. -/
abbrev Memory := List Host.Cell

/-- A valid TLB entry (10_state R116): page-aligned virtual and physical addresses and the index of the PMA entry. -/
structure TlbEntry where
  vaddrPage : Word
  paddrPage : Word
  pmaIndex  : Nat
  deriving DecidableEq, Repr

/-- The valid entries of one TLB of 256 entries (10_state R115), each with its index, indices strictly rising; an index
that is not listed is an invalid entry. -/
abbrev Tlb := List (Nat × TlbEntry)

/-- A load reservation (10_state R96): physical address and size. -/
structure Reservation where
  paddr : Word
  size  : Nat
  deriving DecidableEq, Repr

/-- What the host may do between two steps (60_exceptions R880 to R886). -/
inductive HostAction where
  /-- R881: ask the run loop to return. -/
  | requestExternal
  /-- R881: withdraw that request. -/
  | clearExternal
  /-- R883: resume from a yield. -/
  | resume
  /-- R823, R884: drive the external interrupt inputs. -/
  | setExternalInterrupt (meip seip : Bool)
  /-- R882: deliver the next byte of the console input stream. -/
  | deliverConsoleByte
  /-- R886: call the run loop with this deadline. -/
  | setDeadline (mcycleEnd : Word)
  /-- R885: write an integer register. -/
  | writeX (r : Reg) (v : Word)
  /-- R885: write a floating-point register. -/
  | writeF (r : Reg) (v : Word)
  /-- R885: write `pc`. -/
  | writePc (v : Word)
  /-- R885: write `iflags.PRV`. -/
  | writePriv (p : Priv)
  /-- R885: write `iflags.I`. -/
  | writeIdle (b : Bool)
  /-- R885: write `iflags.Y`; R883 speaks of clearing it. -/
  | writeYielded (b : Bool)
  /-- R885: set `iflags.H`, which nothing can clear (10_state R93, R883). -/
  | setHalted
  /-- R885: write the load reservation. -/
  | writeReservation (r : Option Reservation)
  /-- R885: write the CSR at this address. -/
  | writeCsr (addr : BitVec 12) (v : Word)
  /-- R885: write `tohost`. -/
  | writeTohost (v : Word)
  /-- R885: write `fromhost`. -/
  | writeFromhost (v : Word)
  /-- R885: write `fromhost_pending`. -/
  | writeFromhostPending (b : Bool)
  /-- R885: write `mtimecmp`. -/
  | writeMtimecmp (v : Word)
  /-- R885: write bytes of memory from this physical address on. -/
  | writeMemory (paddr : Word) (bytes : List Byte)
  deriving DecidableEq, Repr

/-- Reasons for the machine to stop with a fault. Every fault of the spec is a trap, which is a next state. -/
inductive Fault where
  /-- The engine error that 60_exceptions R807 keeps the return reason `Failed` for; "never produced by a rule of this
  spec", so nothing raises it. Safe (DESIGN CHOICE, entry 15). -/
  | failed
  deriving DecidableEq, Repr

/-- Reasons to refuse an instruction. -/
inductive Refusal where
  /-- Raised by a dispatch arm of an instruction that has no meaning yet; no arm does. Safe. -/
  | notModelled (mnemonic : String)
  deriving DecidableEq, Repr

/-- The state of the machine. -/
structure State where
  /-- Integer registers (R40); `getX` reads 0 for register 0 (R41). -/
  x               : Vector Word 32
  /-- Floating-point registers (R43). -/
  f               : Vector Word 32
  /-- Program counter (R44). -/
  pc              : Word
  /-- `iflags.PRV` (R91). -/
  priv            : Priv
  /-- `iflags.I`, waiting for interrupt (R92). -/
  idle            : Bool
  /-- `iflags.H` (R93). -/
  halted          : Bool
  /-- `iflags.Y` (R94). -/
  yielded         : Bool
  /-- `iflags.X` (R95). -/
  extReq          : Bool
  /-- `frm` in bits 7:5, `fflags` in bits 4:0 (R48 to R50). -/
  fcsr            : Byte
  /-- The stored bits of `mstatus` (R69, R70). -/
  mstatus         : Word
  medeleg         : Word
  mideleg         : Word
  mie             : Word
  mip             : Word
  mtvec           : Word
  mcounteren      : Word
  mscratch        : Word
  mepc            : Word
  mcause          : Word
  mtval           : Word
  stvec           : Word
  scounteren      : Word
  sscratch        : Word
  sepc            : Word
  scause          : Word
  stval           : Word
  satp            : Word
  mcycle          : Word
  minstret        : Word
  /-- `ilrsc` (R96). -/
  ilrsc           : Option Reservation
  /-- CLINT `mtimecmp` (R100). -/
  mtimecmp        : Word
  /-- HTIF `tohost` (R105). -/
  tohost          : Word
  /-- HTIF `fromhost` (R105). -/
  fromhost        : Word
  /-- HTIF `fromhost_pending` (R105). -/
  fromhostPending : Bool
  /-- The console output stream, oldest byte first (60_exceptions R867). Empty at reset: DESIGN CHOICE, entry 14. -/
  consoleOut      : List Byte
  /-- The console input stream still to be delivered (R118, 60_exceptions R882). -/
  consoleIn       : List Byte
  tlbRead         : Tlb
  tlbWrite        : Tlb
  tlbCode         : Tlb
  /-- Physical memory (R110). -/
  mem             : Memory
  /-- The run deadline (R118, 60_exceptions R886). -/
  mcycleEnd       : Word
  /-- The model's own field (DESIGN CHOICE, entry 5): what the host does before each coming step. -/
  hostInputs      : List (List HostAction)
  /-- The parameters of the step relation (R118); no step changes them (DESIGN CHOICE, entry 16: they stand in the state). -/
  cfg             : Config
  deriving DecidableEq, Repr

/-- The machine right after reset, constructed from the configuration that supplies nothing (10_state R120, R121; any other
configuration: `Configuration.construct`). DESIGN CHOICE, unsafe, as the spec gives no default: `mcycleEnd` (entry 4),
`hostInputs` (entry 5), the two console streams `consoleOut` and `consoleIn` (entry 14), and of `cfg` the RAM length,
`marchid`, `mimpid`, the flash drives and the `DID` tags (entries 1, 2, 3, 18). -/
def State.reset : State where
  x               := Vector.replicate 32 0#64
  f               := Vector.replicate 32 0#64
  pc              := 0x1000#64
  priv            := .machine
  idle            := false
  halted          := false
  yielded         := false
  extReq          := false
  fcsr            := 0#8
  mstatus         := 0#64
  medeleg         := 0#64
  mideleg         := 0#64
  mie             := 0#64
  mip             := 0#64
  mtvec           := 0#64
  mcounteren      := 0#64
  mscratch        := 0#64
  mepc            := 0#64
  mcause          := 0#64
  mtval           := 0#64
  stvec           := 0#64
  scounteren      := 0#64
  sscratch        := 0#64
  sepc            := 0#64
  scause          := 0#64
  stval           := 0#64
  satp            := 0#64
  mcycle          := 0#64
  minstret        := 0#64
  ilrsc           := none
  mtimecmp        := 0#64
  tohost          := 0#64
  fromhost        := 0#64
  fromhostPending := false
  consoleOut      := []
  consoleIn       := []
  tlbRead         := []
  tlbWrite        := []
  tlbCode         := []
  mem             := []
  mcycleEnd       := 0xFFFFFFFFFFFFFFFF#64
  hostInputs      := []
  cfg             := Config.default

/-- What one instruction or one step answers. -/
abbrev StepOutcome := Host.Outcome State Fault Refusal

end Sys2Proof.Machine
end

