-- ==== Sys2Proof/Machine/Memory.lean ====
section
/-! DEFINITION. Bytes of physical memory in canonical form, and little-endian data made of them (spec/20_memory.md R200,
R220). -/

namespace Sys2Proof.Machine

open Sys2Proof

/-- What an unlisted address reads as: "the configured images, zero elsewhere" (10_state R121). -/
def Memory.background : Byte := 0#8

/-- The byte at an address. -/
def Memory.byte : Memory → Nat → Byte
  | [], _ => Memory.background
  | (a, b) :: rest, addr => if addr = a then b else Memory.byte rest addr

/-- Puts a byte into a sorted list, replacing what stood at its address; a byte equal to the background is not listed. -/
def Memory.setByte : Memory → Nat → Byte → Memory
  | [], addr, v => if v = Memory.background then [] else [(addr, v)]
  | (a, b) :: rest, addr, v =>
    if addr < a then
      if v = Memory.background then (a, b) :: rest else (addr, v) :: (a, b) :: rest
    else if addr = a then
      if v = Memory.background then rest else (addr, v) :: rest
    else (a, b) :: Memory.setByte rest addr v

/-- The canonical form below a bound: every address is at least `lo`, addresses strictly rise, no listed byte is the
background. -/
def Memory.wfFrom : Nat → Memory → Bool
  | _, [] => true
  | lo, (a, b) :: rest => decide (lo ≤ a) && (b != Memory.background) && Memory.wfFrom (a + 1) rest

/-- The canonical form of memory. -/
def Memory.wf (m : Memory) : Bool := Memory.wfFrom 0 m

/-- The `n` bytes from `addr` on as a little-endian number (20_memory R220). -/
def Memory.load (m : Memory) (addr : Nat) : Nat → Nat
  | 0 => 0
  | n + 1 => (m.byte addr).toNat + 256 * m.load (addr + 1) n

/-- Stores the low `n` bytes of `v` from `addr` on, little-endian (20_memory R220). -/
def Memory.store (m : Memory) (addr : Nat) : Nat → Nat → Memory
  | 0, _ => m
  | n + 1, v => (m.setByte addr (BitVec.ofNat 8 v)).store (addr + 1) n (v / 256)

/-- Stores a string of bytes from `addr` on. -/
def Memory.storeBytes (m : Memory) (addr : Nat) : List Byte → Memory
  | [] => m
  | b :: bs => (m.setByte addr b).storeBytes (addr + 1) bs

end Sys2Proof.Machine
end

