-- ==== Sys2Proof/Machine/Ops.lean ====
section
/-! DEFINITION. The named operations over registers, `mstatus`, privilege and the TLBs; retiring an instruction; taking a
trap and returning from one (spec/10_state.md, spec/60_exceptions.md, spec/48_privileged_system.md). -/

namespace Sys2Proof.Machine

open Sys2Proof

/-! ## Register files -/

/-- `x[r]`: register 0 reads as 0 (10_state R41). -/
def State.getX (s : State) (r : Reg) : Word :=
  if r = 0#5 then 0#64 else s.x[r.toNat]'r.isLt

/-- `x[r] <- v`: a write to register 0 is discarded (10_state R41). -/
def State.setX (s : State) (r : Reg) (v : Word) : State :=
  if r = 0#5 then s else { s with x := s.x.set r.toNat v r.isLt }

/-- `f[r]`: no register is hardwired (10_state R43). -/
def State.getF (s : State) (r : Reg) : Word := s.f[r.toNat]'r.isLt

/-- `f[r] <- v`, which always sets `mstatus.FS` to Dirty (10_state R86, 45_f_single R554). -/
def State.setF (s : State) (r : Reg) (v : Word) : State :=
  { s with f := s.f.set r.toNat v r.isLt, mstatus := s.mstatus ||| 0x6000#64 }

/-! ## Privilege numbers -/

/-- The two-bit number of a mode, that of `MPP` (10_state R91). -/
def Priv.bits : Priv → BitVec 2
  | .user => 0#2
  | .supervisor => 1#2
  | .machine => 3#2

/-- The mode of a two-bit number. The number 2 is reserved and never stored in `MPP` (10_state R70); reading it as M is
DESIGN CHOICE (entry 11), safe: no state that satisfies `State.Inv` holds it. -/
def Priv.ofBits (b : BitVec 2) : Priv :=
  if b = 0#2 then .user else if b = 1#2 then .supervisor else .machine

/-! ## Fields of `mstatus` (10_state R69) -/

def State.sieBit (s : State) : Bool := s.mstatus.getLsbD 1
def State.mieBit (s : State) : Bool := s.mstatus.getLsbD 3
def State.spieBit (s : State) : Bool := s.mstatus.getLsbD 5
def State.mpieBit (s : State) : Bool := s.mstatus.getLsbD 7
/-- `SPP`: the mode before the last trap into S-mode. -/
def State.spp (s : State) : Priv := if s.mstatus.getLsbD 8 then .supervisor else .user
/-- `MPP`: the mode before the last trap into M-mode. -/
def State.mpp (s : State) : Priv := Priv.ofBits (slice s.mstatus 11 2)
/-- `FS`: 0 Off, 1 Initial, 2 Clean, 3 Dirty. -/
def State.fs (s : State) : BitVec 2 := slice s.mstatus 13 2
def State.mprv (s : State) : Bool := s.mstatus.getLsbD 17
def State.sum (s : State) : Bool := s.mstatus.getLsbD 18
def State.mxr (s : State) : Bool := s.mstatus.getLsbD 19
def State.tvm (s : State) : Bool := s.mstatus.getLsbD 20
def State.tw (s : State) : Bool := s.mstatus.getLsbD 21
def State.tsr (s : State) : Bool := s.mstatus.getLsbD 22

/-! ## TLB flushes (20_memory R262) -/

/-- All entries of all three TLBs become invalid. -/
def State.flushTlbs (s : State) : State := { s with tlbRead := [], tlbWrite := [], tlbCode := [] }

/-- Writes the stored bits of `mstatus`; a change of `SUM`, `MXR`, `MPRV` or `MPP` flushes the TLBs (10_state R70, 20_memory
R262 (b)). -/
def State.withMstatus (s : State) (new : Word) : State :=
  if slice new 17 3 = slice s.mstatus 17 3 ∧ slice new 11 2 = slice s.mstatus 11 2 then { s with mstatus := new }
  else { s.flushTlbs with mstatus := new }

/-- Writes `iflags.PRV`; a change flushes the TLBs (10_state R91, 20_memory R262 (c)). -/
def State.withPriv (s : State) (p : Priv) : State :=
  if p = s.priv then s else { s.flushTlbs with priv := p }

/-! ## Exceptions (60_exceptions R810) -/

/-- The synchronous exceptions by the names of 60_exceptions R810. -/
inductive Exc where
  | instructionAddressMisaligned
  | instructionAccessFault
  | illegalInstruction
  | breakpoint
  | loadAddressMisaligned
  | loadAccessFault
  | storeAmoAddressMisaligned
  | storeAmoAccessFault
  | environmentCallFromUMode
  | environmentCallFromSMode
  | environmentCallFromMMode
  | instructionPageFault
  | loadPageFault
  | storeAmoPageFault
  deriving DecidableEq, Repr

/-- The cause code (60_exceptions R810). -/
def Exc.code : Exc → Nat
  | .instructionAddressMisaligned => 0
  | .instructionAccessFault => 1
  | .illegalInstruction => 2
  | .breakpoint => 3
  | .loadAddressMisaligned => 4
  | .loadAccessFault => 5
  | .storeAmoAddressMisaligned => 6
  | .storeAmoAccessFault => 7
  | .environmentCallFromUMode => 8
  | .environmentCallFromSMode => 9
  | .environmentCallFromMMode => 11
  | .instructionPageFault => 12
  | .loadPageFault => 13
  | .storeAmoPageFault => 15

/-! ## Trap entry (60_exceptions R840 to R845) -/

/-- `cause = (is_int << 63) | code` (60_exceptions R840). -/
def trapCause (isInt : Bool) (code : Nat) : Word :=
  if isInt then BitVec.ofNat 64 code ||| 0x8000000000000000#64 else BitVec.ofNat 64 code

/-- `Vector(tvec, cause)` (60_exceptions R844). -/
def trapVector (tvec cause : Word) : Word :=
  let base := tvec &&& ~~~3#64
  if tvec.getLsbD 0 && cause.getLsbD 63 then base + 4#64 * (cause &&& 0x7FFFFFFFFFFFFFFF#64) else base

/-- A trap into S-mode (60_exceptions R842). Bit 0 of `sepc` is hardwired 0 (10_state R60; DEDUCED, entry 10). -/
def State.trapToS (s : State) (cause epc tval : Word) : State :=
  let ms := setBit (setBit (setBit s.mstatus 5 s.sieBit) 1 false) 8 (s.priv == .supervisor)
  let s1 := (s.withMstatus ms).withPriv .supervisor
  { s1 with scause := cause, sepc := epc &&& ~~~1#64, stval := tval, pc := trapVector s.stvec cause }

/-- A trap into M-mode (60_exceptions R843). Bit 0 of `mepc` is hardwired 0 (10_state R79; DEDUCED, entry 10). -/
def State.trapToM (s : State) (cause epc tval : Word) : State :=
  let ms := setField2 (setBit (setBit s.mstatus 7 s.mieBit) 3 false) 11 s.priv.bits
  let s1 := (s.withMstatus ms).withPriv .machine
  { s1 with mcause := cause, mepc := epc &&& ~~~1#64, mtval := tval, pc := trapVector s.mtvec cause }

/-- Whether a trap is handled in S-mode (60_exceptions R841). -/
def State.delegated (s : State) (isInt : Bool) (code : Nat) : Bool :=
  s.priv != .machine && (if isInt then s.mideleg.getLsbD code else s.medeleg.getLsbD code)

/-- `TakeTrap(is_int, code, epc, tval)` (60_exceptions R840); every trap clears the reservation (R845). -/
def State.takeTrap (s : State) (isInt : Bool) (code : Nat) (epc tval : Word) : State :=
  let s1 := if s.delegated isInt code then s.trapToS (trapCause isInt code) epc tval
            else s.trapToM (trapCause isInt code) epc tval
  { s1 with ilrsc := none }

/-- An exception of the instruction at `pc`: `TakeTrap(0, code(E), pc, tval)` (60_exceptions R840). -/
def State.takeException (s : State) (e : Exc) (tval : Word) : State := s.takeTrap false e.code s.pc tval

/-! ## Trap return (60_exceptions R847, 48_privileged_system R672, R673) -/

/-- The state after `MRET`, before the instruction retires (48_privileged_system R672). -/
def State.returnFromM (s : State) : State :=
  let p := s.mpp
  let m1 := setField2 (setBit (setBit s.mstatus 3 s.mpieBit) 7 true) 11 0#2
  let m2 := if p = .machine then m1 else setBit m1 17 false
  { (s.withMstatus m2).withPriv p with pc := s.mepc }

/-- The state after `SRET`, before the instruction retires (48_privileged_system R673). -/
def State.returnFromS (s : State) : State :=
  let m1 := setBit (setBit (setBit s.mstatus 1 s.spieBit) 5 true) 8 false
  { (s.withMstatus (setBit m1 17 false)).withPriv s.spp with pc := s.sepc }

/-! ## Results of operations that can raise -/

/-- What an operation inside an instruction gives: a value, or the exception it raises with its trap value. Either way the
state it leaves: page-table updates and TLB fills survive an exception (60_exceptions R804). -/
inductive Result (α : Type) where
  | ok (a : α) (s : State)
  | raised (e : Exc) (tval : Word) (s : State)
  deriving DecidableEq, Repr

/-- Goes on with the value, unless an exception was raised. -/
def Result.bind {α β : Type} (r : Result α) (k : α → State → Result β) : Result β :=
  match r with
  | .ok a s => k a s
  | .raised e tval s => .raised e tval s

/-! ## Completing an instruction -/

/-- The instruction retires and goes on at `next` (60_exceptions R800, R805: `minstret` grows by one). -/
def State.retireTo (s : State) (next : Word) : State := { s with pc := next, minstret := s.minstret + 1#64 }

/-- The instruction of length `len` retires and `pc <- pc + ilen` (10_state R44). -/
def State.retire (s : State) (len : Word) : State := s.retireTo (s.pc + len)

/-- Completes an instruction of length `len` whose effect may have raised an exception. -/
def complete (len : Word) (r : Result Unit) : StepOutcome :=
  match r with
  | .ok _ s => .next (s.retire len)
  | .raised e tval s => .next (s.takeException e tval)

/-- The instruction raises illegal instruction, with its own bits as the trap value (60_exceptions R811). -/
def illegal (i : Instr) (s : State) : StepOutcome := .next (s.takeException .illegalInstruction i.trapValue)

/-- The instruction writes `x[rd]` and goes on. -/
def writeX (len : Word) (rd : Reg) (v : Word) (s : State) : StepOutcome := .next ((s.setX rd v).retire len)

/-- `brk` is derived (10_state R97). -/
def State.brk (s : State) : Bool :=
  (s.mip &&& s.mie) != 0#64 || s.halted || s.yielded || s.extReq

/-- `mtime = floor(mcycle / RTC_FREQ_DIV)` (10_state R101); a divisor of 0 would give 0 (DESIGN CHOICE, entry 17). -/
def State.mtime (s : State) : Word := BitVec.ofNat 64 (s.mcycle.toNat / s.cfg.rtcFreqDiv)

end Sys2Proof.Machine
end

