-- ==== Sys2Proof/Machine/Devices.lean ====
section
/-! DEFINITION. The two devices: CLINT (spec/60_exceptions.md R857 to R862) and HTIF (R863 to R870). A device that refuses
an access answers `none`. -/

namespace Sys2Proof.Machine

open Sys2Proof

/-! ## CLINT -/

/-- `DeviceRead(CLINT, offset, n)` (60_exceptions R858). -/
def clintRead (s : State) (offset n : Nat) : Option Word :=
  if n ≠ 8 then none
  else if offset = 0x0000 then some (if s.mip.getLsbD 3 then 1#64 else 0#64)
  else if offset = 0x4000 then some s.mtimecmp
  else if offset = 0xBFF8 then some s.mtime
  else none

/-- Writes `mtimecmp` and updates `mip.MTIP` (60_exceptions R861). -/
def State.setMtimecmp (s : State) (v : Word) : State :=
  { s with mtimecmp := v, mip := setBit s.mip 7 (decide (v ≤ s.mtime)) }

/-- `DeviceWrite(CLINT, offset, n, v)` (60_exceptions R859). -/
def clintWrite (s : State) (offset n : Nat) (v : Word) : Option State :=
  if n ≠ 8 then none
  else if offset = 0x0000 then some { s with mip := setBit s.mip 3 (v.getLsbD 0) }
  else if offset = 0x4000 then some (s.setMtimecmp v)
  else if offset = 0xBFF8 then some s
  else none

/-! ## HTIF -/

/-- `DeviceRead(HTIF, offset, n)` (60_exceptions R864). -/
def htifRead (s : State) (offset n : Nat) : Option Word :=
  if n ≠ 8 then none
  else if offset = 0 then some s.tohost
  else if offset = 8 then some s.fromhost
  else none

/-- `enabled(mask) = (cmd < 64 and mask[cmd] == 1)` (60_exceptions R865). -/
def htifEnabled (mask : Word) (cmd : BitVec 8) : Bool := decide (cmd.toNat < 64) && mask.getLsbD cmd.toNat

/-- `Halt()` (60_exceptions R866): `tohost` keeps the written value. -/
def State.htifHalt (s : State) : State := { s with halted := true }

/-- `Putchar(payload)` (60_exceptions R867). -/
def State.htifPutchar (s : State) (b : Byte) : State :=
  { s with consoleOut := s.consoleOut ++ [b], tohost := 0#64, fromhost := 0x0101000000000000#64 }

/-- `Getchar()` (60_exceptions R868). -/
def State.htifGetchar (s : State) : State := { s with tohost := 0#64 }

/-- `Yield(cmd)` (60_exceptions R869): `tohost` keeps the written value. -/
def State.htifYield (s : State) (cmd : BitVec 8) : State :=
  { s with yielded := true, fromhost := 2#8 ++ cmd ++ 0#48 }

/-- A write of `tohost` (60_exceptions R865, R870). -/
def State.htifCommand (s : State) (v : Word) : State :=
  let s := { s with tohost := v }
  let dev := slice v 56 8
  let cmd := slice v 48 8
  if dev = 0#8 ∧ cmd = 0#8 ∧ htifEnabled s.cfg.ihalt cmd = true ∧ v.getLsbD 0 = true then s.htifHalt
  else if dev = 1#8 ∧ cmd = 1#8 ∧ htifEnabled s.cfg.iconsole cmd = true then s.htifPutchar (slice v 0 8)
  else if dev = 1#8 ∧ cmd = 0#8 ∧ htifEnabled s.cfg.iconsole cmd = true then s.htifGetchar
  else if dev = 2#8 ∧ cmd ≤ 1#8 ∧ htifEnabled s.cfg.iyield cmd = true then s.htifYield cmd
  else { s with tohost := 0#64 }

/-- `DeviceWrite(HTIF, offset, n, v)` (60_exceptions R865). -/
def htifWrite (s : State) (offset n : Nat) (v : Word) : Option State :=
  if n ≠ 8 then none
  else if offset = 8 then some { s with fromhost := v, fromhostPending := false }
  else if offset = 0 then some (s.htifCommand v)
  else none

end Sys2Proof.Machine
end

