-- ==== Sys2Proof/Machine/Translate.lean ====
section
/-! DEFINITION. The physical address map, the page-table walk, the TLBs, and the virtual access primitives (spec/20_memory.md
R210 to R264; spec/44_a_atomics.md R522, R524). -/

namespace Sys2Proof.Machine

open Sys2Proof

/-! ## The physical address map -/

/-- Whether `[paddr, paddr+n)` lies in the entry, compared as unbounded integers (20_memory R210). -/
def containsRange (e : PmaEntry) (paddr n : Nat) : Bool :=
  decide (e.start ≤ paddr) && decide (paddr + n ≤ e.start + e.length)

/-- `find(paddr, n)`: the first entry containing the range; `none` is the empty entry (20_memory R210). -/
def findPma (pma : List PmaEntry) (paddr n : Nat) : Option PmaEntry :=
  pma.find? fun e => containsRange e paddr n

/-- Whether a store of `n2` bytes at `p2` overlaps the reserved bytes (44_a_atomics R522). -/
def overlaps (r : Reservation) (p2 n2 : Nat) : Bool :=
  decide (p2 < r.paddr.toNat + r.size) && decide (r.paddr.toNat < p2 + n2)

/-- Clears the reservation if a store of `n` bytes at `paddr` conflicts with it (44_a_atomics R522). -/
def breakReservation (o : Option Reservation) (paddr n : Nat) : Option Reservation :=
  match o with
  | some r => if overlaps r paddr n then none else some r
  | none => none

/-- `PhysWrite` to an entry of kind memory (20_memory R216). Every such store flushes the TLBs, which R264 allows
(DESIGN CHOICE, entry 7). -/
def State.storeMem (s : State) (paddr n : Nat) (v : Word) : State :=
  { s.flushTlbs with mem := s.mem.store paddr n v.toNat, ilrsc := breakReservation s.ilrsc paddr n }

/-- `PhysRead` of `n` bytes of memory (20_memory R215). -/
def State.loadMem (s : State) (paddr n : Nat) : Word := BitVec.ofNat 64 (s.mem.load paddr n)

/-- `PhysRead(pa, n)` in entry `e`; `none` when a device refuses (20_memory R215). -/
def physRead (s : State) (e : PmaEntry) (paddr n : Nat) : Option Word :=
  match e.kind with
  | .memory => some (s.loadMem paddr n)
  | .clint => clintRead s (paddr - e.start) n
  | .htif => htifRead s (paddr - e.start) n

/-- `PhysWrite(pa, n, v)` in entry `e`; `none` when a device refuses (20_memory R216). -/
def physWrite (s : State) (e : PmaEntry) (paddr n : Nat) (v : Word) : Option State :=
  match e.kind with
  | .memory => some (s.storeMem paddr n v)
  | .clint => clintWrite s (paddr - e.start) n v
  | .htif => htifWrite s (paddr - e.start) n v

/-! ## Access kinds and their faults -/

/-- The kind of an access (20_memory R250); an atomic other than `LR` counts as a store (R257). -/
inductive Access where
  | fetch
  | load
  | store
  deriving DecidableEq, Repr

/-- The page fault of the access kind (20_memory R257, 60_exceptions R810). -/
def Access.pageFault : Access → Exc
  | .fetch => .instructionPageFault
  | .load => .loadPageFault
  | .store => .storeAmoPageFault

/-- The access fault of the access kind (20_memory R212). -/
def Access.accessFault : Access → Exc
  | .fetch => .instructionAccessFault
  | .load => .loadAccessFault
  | .store => .storeAmoAccessFault

/-- The misaligned exception of the access kind (20_memory R225, R227). -/
def Access.misaligned : Access → Exc
  | .fetch => .instructionAddressMisaligned
  | .load => .loadAddressMisaligned
  | .store => .storeAmoAddressMisaligned

/-- The flag of a PMA entry that the access needs (20_memory R212). -/
def Access.flagOf (acc : Access) (e : PmaEntry) : Bool :=
  match acc with
  | .fetch => e.x
  | .load => e.r
  | .store => e.w

/-- Effective privilege (20_memory R242). -/
def State.effPriv (s : State) (acc : Access) : Priv :=
  match acc with
  | .fetch => s.priv
  | .load | .store => if s.mprv then s.mpp else s.priv

/-! ## The TLBs (20_memory R260, R261) -/

/-- The TLB of an access kind. -/
def State.tlb (s : State) (acc : Access) : Tlb :=
  match acc with
  | .fetch => s.tlbCode
  | .load => s.tlbRead
  | .store => s.tlbWrite

/-- Replaces the TLB of an access kind. -/
def State.setTlb (s : State) (acc : Access) (t : Tlb) : State :=
  match acc with
  | .fetch => { s with tlbCode := t }
  | .load => { s with tlbRead := t }
  | .store => { s with tlbWrite := t }

/-- The page part of an address: `va & ~0xFFF`. -/
def pageOf (a : Word) : Word := a &&& ~~~0xFFF#64

/-- The entry index `(va >> 12) mod 256` (20_memory R260). -/
def tlbIndex (va : Word) : Nat := va.toNat / 4096 % 256

/-- The entry at an index, if it is valid. -/
def Tlb.at : Tlb → Nat → Option TlbEntry
  | [], _ => none
  | (j, e) :: rest, i => if j = i then some e else Tlb.at rest i

/-- Puts an entry at an index, replacing what was there (20_memory R261). -/
def Tlb.put : Tlb → Nat → TlbEntry → Tlb
  | [], i, e => [(i, e)]
  | (j, e') :: rest, i, e =>
    if i < j then (i, e) :: (j, e') :: rest
    else if i = j then (i, e) :: rest
    else (j, e') :: Tlb.put rest i e

/-- The entry that hits for `va` (20_memory R260). -/
def Tlb.hit (t : Tlb) (va : Word) : Option TlbEntry :=
  match t.at (tlbIndex va) with
  | some e => if e.vaddrPage = pageOf va then some e else none
  | none => none

/-- Fills the TLB of an access kind after a walk, when the physical page lies wholly in a memory entry with the needed flag
(20_memory R261). -/
def State.fillTlb (s : State) (acc : Access) (va pa : Word) : State :=
  match s.cfg.pma.findIdx? fun e => containsRange e (pageOf pa).toNat 4096 with
  | some i =>
    match s.cfg.pma[i]? with
    | some e =>
      if e.kind = .memory ∧ acc.flagOf e = true then
        s.setTlb acc ((s.tlb acc).put (tlbIndex va) { vaddrPage := pageOf va, paddrPage := pageOf pa, pmaIndex := i })
      else s
    | none => s
  | none => s

/-! ## Page tables (20_memory R251 to R258) -/

/-- `satp.MODE` (10_state R64). -/
def State.satpMode (s : State) : BitVec 4 := slice s.satp 60 4

/-- `satp.PPN` (10_state R64). -/
def State.satpPpn (s : State) : BitVec 44 := slice s.satp 0 44

/-- The number of levels of a scheme (20_memory R251); a mode that no `satp` write stores has none (DESIGN CHOICE,
entry 12). -/
def levelsOf (mode : BitVec 4) : Nat :=
  match mode with
  | 8#4 => 3
  | 9#4 => 4
  | 10#4 => 5
  | _ => 0

/-- Canonical form: bits `63 : VA_BITS` all equal bit `VA_BITS-1`, with `VA_BITS = 12 + 9 * levels` (20_memory R251, R252). -/
def canonical (levels : Nat) (va : Word) : Bool :=
  let top := va.toNat / 2 ^ (11 + 9 * levels)
  decide (top = 0) || decide (top = 2 ^ (53 - 9 * levels) - 1)

/-- `VPN[i]` (20_memory R251). -/
def vpn (va : Word) (i : Nat) : Nat := va.toNat / 2 ^ (12 + 9 * i) % 512

/-- The PPN of a page-table entry (20_memory R253). -/
def ptePpn (pte : Word) : Nat := (slice pte 10 44).toNat

/-- `Permitted(pte, acc, eff)` (20_memory R256). -/
def permitted (s : State) (pte : Word) (acc : Access) (eff : Priv) : Bool :=
  let r := pte.getLsbD 1
  let w := pte.getLsbD 2
  let x := pte.getLsbD 3
  let u := pte.getLsbD 4
  if eff = .user ∧ u = false then false
  else if eff = .supervisor ∧ u = true ∧ (acc = .fetch ∨ s.sum = false) then false
  else
    match acc with
    | .fetch => x
    | .load => r || (s.mxr && x)
    | .store => w

/-- The A and D bits an access needs (20_memory R255). -/
def neededBits (acc : Access) : Word :=
  match acc with
  | .fetch | .load => 0x40#64
  | .store => 0xC0#64

/-- The physical address through a leaf at level `i`: `{PPN[43:9i], va[12+9i-1:0]}` (20_memory R254). -/
def leafAddress (pte va : Word) (i : Nat) : Word :=
  BitVec.ofNat 64 (ptePpn pte / 2 ^ (9 * i) * 2 ^ (12 + 9 * i) + va.toNat % 2 ^ (12 + 9 * i))

/-- The end of the walk at a leaf (20_memory R254, R255): permission, superpage alignment, A and D update. -/
def walkLeaf (s : State) (va : Word) (acc : Access) (eff : Priv) (i : Nat) (e : PmaEntry) (pteAddr : Nat) (pte : Word) :
    Result Word :=
  if permitted s pte acc eff = false then .raised acc.pageFault va s
  else if ptePpn pte % 2 ^ (9 * i) ≠ 0 then .raised acc.pageFault va s
  else if pte &&& neededBits acc = neededBits acc then .ok (leafAddress pte va i) s
  else if e.w = false then .raised acc.accessFault va s
  else .ok (leafAddress pte va i) (s.storeMem pteAddr 8 (pte ||| neededBits acc))

/-- One level of the walk (20_memory R254): reads the PTE at `pteAddr`, then ends at a leaf of level `i` or goes on with
`deeper` at the next table. -/
def walkLevel (s : State) (va : Word) (acc : Access) (eff : Priv) (i pteAddr : Nat) (deeper : Nat → Result Word) :
    Result Word :=
  match findPma s.cfg.pma pteAddr 8 with
  | none => .raised acc.accessFault va s
  | some e =>
    if e.kind ≠ .memory ∨ e.r = false then .raised acc.accessFault va s
    else
      let pte := s.loadMem pteAddr 8
      if pte.getLsbD 0 = false ∨ (pte.getLsbD 1 = false ∧ pte.getLsbD 2 = true) then .raised acc.pageFault va s
      else if slice pte 54 10 ≠ 0#10 then .raised acc.pageFault va s
      else if pte.getLsbD 1 = true ∨ pte.getLsbD 3 = true then walkLeaf s va acc eff i e pteAddr pte
      else deeper (ptePpn pte * 4096)

/-- The loop of the walk over `levels` remaining levels, with the table at physical address `a` (20_memory R254). -/
def walkFrom (s : State) (va : Word) (acc : Access) (eff : Priv) : Nat → Nat → Result Word
  | 0, _ => .raised acc.pageFault va s
  | i + 1, a => walkLevel s va acc eff i (a + vpn va i * 8) (walkFrom s va acc eff i)

/-- `Walk(va, acc, eff)` (20_memory R254). -/
def walk (s : State) (va : Word) (acc : Access) (eff : Priv) : Result Word :=
  let levels := levelsOf s.satpMode
  if canonical levels va = false then .raised acc.pageFault va s
  else walkFrom s va acc eff levels (s.satpPpn.toNat * 4096)

/-- Whether an access is not translated (20_memory R250). -/
def State.bare (s : State) (acc : Access) : Bool := s.effPriv acc == .machine || s.satpMode == 0#4

/-- `Translate(va, acc)` (20_memory R250). -/
def translate (s : State) (va : Word) (acc : Access) : Result Word :=
  if s.bare acc then .ok va s
  else
    match (s.tlb acc).hit va with
    | some e => .ok (e.paddrPage ||| (va &&& 0xFFF#64)) s
    | none => (walk s va acc (s.effPriv acc)).bind fun pa s1 => .ok pa (s1.fillTlb acc va pa)

/-! ## Virtual access primitives (20_memory R240, R241) -/

/-- `MemRead(va, n)` (20_memory R240). -/
def memRead (s : State) (va : Word) (n : Nat) : Result Word :=
  if va.toNat % n ≠ 0 then .raised .loadAddressMisaligned va s
  else
    (translate s va .load).bind fun pa s1 =>
      match findPma s1.cfg.pma pa.toNat n with
      | none => .raised .loadAccessFault va s1
      | some e =>
        if e.r = false then .raised .loadAccessFault va s1
        else
          match physRead s1 e pa.toNat n with
          | some v => .ok v s1
          | none => .raised .loadAccessFault va s1

/-- `MemWrite(va, n, v)` (20_memory R241). -/
def memWrite (s : State) (va : Word) (n : Nat) (v : Word) : Result Unit :=
  if va.toNat % n ≠ 0 then .raised .storeAmoAddressMisaligned va s
  else
    (translate s va .store).bind fun pa s1 =>
      match findPma s1.cfg.pma pa.toNat n with
      | none => .raised .storeAmoAccessFault va s1
      | some e =>
        if e.w = false then .raised .storeAmoAccessFault va s1
        else
          match physWrite s1 e pa.toNat n v with
          | some s2 => .ok () s2
          | none => .raised .storeAmoAccessFault va s1

/-- `AtomicAddr(va, n, acc)` (44_a_atomics R524). -/
def atomicAddr (s : State) (va : Word) (n : Nat) (acc : Access) : Result Word :=
  if va.toNat % n ≠ 0 then .raised acc.misaligned va s
  else
    (translate s va acc).bind fun pa s1 =>
      match findPma s1.cfg.pma pa.toNat n with
      | none => .raised acc.accessFault va s1
      | some e =>
        if e.kind ≠ .memory ∨ e.r = false ∨ (acc = .store ∧ e.w = false) then .raised acc.accessFault va s1
        else .ok pa s1

/-! ## Instruction fetch (20_memory R243) -/

/-- `FetchParcel(va)` (20_memory R243). -/
def fetchParcel (s : State) (va : Word) : Result Parcel :=
  (translate s va .fetch).bind fun pa s1 =>
    match findPma s1.cfg.pma pa.toNat 2 with
    | none => .raised .instructionAccessFault va s1
    | some e =>
      if e.x = false ∨ e.kind ≠ .memory then .raised .instructionAccessFault va s1
      else .ok (BitVec.ofNat 16 (s1.mem.load pa.toNat 2)) s1

/-- `Fetch(pc)`: the instruction at `pc` as it stands in memory (20_memory R243, 30_encoding R301). -/
def fetch (s : State) : Result Encoded :=
  if s.pc.getLsbD 0 = true then .raised .instructionAddressMisaligned s.pc s
  else
    (fetchParcel s s.pc).bind fun lo s1 =>
      if slice lo 0 2 ≠ 3#2 then .ok (.half lo) s1
      else (fetchParcel s1 (s.pc + 2#64)).bind fun hi s2 => .ok (.word (hi ++ lo)) s2

end Sys2Proof.Machine
end

