-- ==== Sys2Proof/Machine/Operands.lean ====
section
/-! DEFINITION. Operand forms: the immediates of 30_encoding R304 and of spec/49_c_compressed.md as 64-bit values, the
compressed register fields (30_encoding R321), effective addresses and jump targets. -/

namespace Sys2Proof.Machine

open Sys2Proof

/-! ## Immediates -/

/-- I-imm and S-imm (30_encoding R304). -/
def immI (imm : BitVec 12) : Word := sext64 imm

/-- B-imm: `imm[12:1]` and a zero bit (30_encoding R304). -/
def immB (imm : BitVec 12) : Word := sext64 (imm ++ 0#1)

/-- U-imm: 12 zero bits below `imm` (30_encoding R304). -/
def immU (imm : BitVec 20) : Word := sext64 (imm ++ 0#12)

/-- J-imm: `imm[20:1]` and a zero bit (30_encoding R304). -/
def immJ (imm : BitVec 20) : Word := sext64 (imm ++ 0#1)

/-- `uimm` of the CSR immediate forms (30_encoding R304). -/
def immCsr (uimm : BitVec 5) : Word := zext64 uimm

/-- The six-bit signed immediate of the CI and CB forms (49_c_compressed R709 to R711, R716). -/
def immC6 (imm : BitVec 6) : Word := sext64 imm

/-- `C.ADDI4SPN`: scaled by 4, zero-extended (49_c_compressed R701). -/
def immSpn (nzuimm : BitVec 8) : Word := zext64 (nzuimm ++ 0#2)

/-- `C.ADDI16SP`: scaled by 16, sign-extended (49_c_compressed R712). -/
def imm16sp (nzimm : BitVec 6) : Word := sext64 (nzimm ++ 0#4)

/-- `C.LUI`: bits 17:12, sign-extended (49_c_compressed R713). -/
def immCLui (nzimm : BitVec 6) : Word := sext64 (nzimm ++ 0#12)

/-- An unsigned offset scaled by 4 (49_c_compressed R703, R706, R728, R736). -/
def offW {n : Nat} (uimm : BitVec n) : Word := zext64 (uimm ++ 0#2)

/-- An unsigned offset scaled by 8 (49_c_compressed R702, R704, R705, R707, R727, R729, R735, R737). -/
def offD {n : Nat} (uimm : BitVec n) : Word := zext64 (uimm ++ 0#3)

/-- CJ offset: `imm[11:1]` and a zero bit (49_c_compressed R723). -/
def immCJ (imm : BitVec 11) : Word := sext64 (imm ++ 0#1)

/-- CB branch offset: `imm[8:1]` and a zero bit (49_c_compressed R724). -/
def immCB (imm : BitVec 8) : Word := sext64 (imm ++ 0#1)

/-! ## Registers -/

/-- A three-bit field names register `8 + r` (30_encoding R321). -/
def cReg (r : CReg) : Reg := 1#2 ++ r

/-- The stack pointer of the compressed forms (10_state R42). -/
def spReg : Reg := 2#5

/-- The link register of `C.JALR` (49_c_compressed R733). -/
def raReg : Reg := 1#5

/-! ## Addresses -/

/-- The effective address of a load or store: `x[rs1] + sext_64(imm)` (42_rv64i_load_store_fence R470). -/
def State.effAddr (s : State) (rs1 : Reg) (imm : BitVec 12) : Word := s.getX rs1 + immI imm

/-- The target of `JALR`: bit 0 cleared (41_rv64i_control_transfer R452). -/
def jalrTarget (base offset : Word) : Word := (base + offset) &&& ~~~1#64

/-- An operand as a single-precision value (45_f_single R550). -/
def State.getS (s : State) (r : Reg) : Word := unboxS (s.getF r)

end Sys2Proof.Machine
end

