-- ==== Sys2Proof/Machine/Atomics.lean ====
section
/-! DEFINITION. Meanings of the A extension (spec/44_a_atomics.md); `aq` and `rl` have no effect (R525). -/

namespace Sys2Proof.Machine

open Sys2Proof

/-- Load-reserved of `n` bytes: makes the reservation, even when `rd` is `x0` (44_a_atomics R521, R526, R537). -/
def loadReserved (n : Nat) (ext : Word → Word) (rd rs1 : Reg) (s : State) : StepOutcome :=
  complete 4#64 ((atomicAddr s (s.getX rs1) n .load).bind fun pa s1 =>
    .ok () (State.setX { s1 with ilrsc := some { paddr := pa, size := n } } rd (ext (s1.loadMem pa.toNat n))))

/-- Store-conditional of `n` bytes: checks the address first; stores and writes 0 when the reservation is `(pa, n)`, else
writes 1; clears the reservation either way (44_a_atomics R520, R523, R527, R538). -/
def storeConditional (n : Nat) (rd rs1 rs2 : Reg) (s : State) : StepOutcome :=
  complete 4#64 ((atomicAddr s (s.getX rs1) n .store).bind fun pa s1 =>
    let success := s1.ilrsc == some { paddr := pa, size := n }
    let s2 := if success then s1.storeMem pa.toNat n (s.getX rs2) else s1
    .ok () (State.setX { s2 with ilrsc := none } rd (if success then 0#64 else 1#64)))

/-- An atomic memory operation on `n` bytes: `x[rd]` gets the old value extended by `ext`, memory `f old x[rs2]`
(44_a_atomics R528, R539). -/
def amo (n : Nat) (ext : Word → Word) (f : Word → Word → Word) (rd rs1 rs2 : Reg) (s : State) : StepOutcome :=
  complete 4#64 ((atomicAddr s (s.getX rs1) n .store).bind fun pa s1 =>
    let old := s1.loadMem pa.toNat n
    .ok () ((s1.storeMem pa.toNat n (f old (s.getX rs2))).setX rd (ext old)))

/-- The signed order of the low 32 bits (44_a_atomics R533, R534). -/
def sltW (a b : Word) : Bool := (low32 a).slt (low32 b)

/-- The unsigned order of the low 32 bits (44_a_atomics R535, R536). -/
def ultW (a b : Word) : Bool := (low32 a).ult (low32 b)

/-- `LR.W` (R526): load-reserved. -/
def execLrW (rd rs1 : Reg) (_aq _rl : BitVec 1) (s : State) : StepOutcome := loadReserved 4 sextLow32 rd rs1 s

/-- `SC.W` (R527): store-conditional. -/
def execScW (rd rs1 rs2 : Reg) (_aq _rl : BitVec 1) (s : State) : StepOutcome := storeConditional 4 rd rs1 rs2 s

/-- `AMOSWAP.W` (R528): atomic swap. -/
def execAmoswapW (rd rs1 rs2 : Reg) (_aq _rl : BitVec 1) (s : State) : StepOutcome :=
  amo 4 sextLow32 (fun _ b => b) rd rs1 rs2 s

/-- `AMOADD.W` (R529): atomic add. -/
def execAmoaddW (rd rs1 rs2 : Reg) (_aq _rl : BitVec 1) (s : State) : StepOutcome :=
  amo 4 sextLow32 (fun a b => a + b) rd rs1 rs2 s

/-- `AMOXOR.W` (R530): atomic exclusive or. -/
def execAmoxorW (rd rs1 rs2 : Reg) (_aq _rl : BitVec 1) (s : State) : StepOutcome :=
  amo 4 sextLow32 (fun a b => a ^^^ b) rd rs1 rs2 s

/-- `AMOAND.W` (R531): atomic and. -/
def execAmoandW (rd rs1 rs2 : Reg) (_aq _rl : BitVec 1) (s : State) : StepOutcome :=
  amo 4 sextLow32 (fun a b => a &&& b) rd rs1 rs2 s

/-- `AMOOR.W` (R532): atomic or. -/
def execAmoorW (rd rs1 rs2 : Reg) (_aq _rl : BitVec 1) (s : State) : StepOutcome :=
  amo 4 sextLow32 (fun a b => a ||| b) rd rs1 rs2 s

/-- `AMOMIN.W` (R533): atomic signed minimum. -/
def execAmominW (rd rs1 rs2 : Reg) (_aq _rl : BitVec 1) (s : State) : StepOutcome :=
  amo 4 sextLow32 (fun a b => if sltW b a then b else a) rd rs1 rs2 s

/-- `AMOMAX.W` (R534): atomic signed maximum. -/
def execAmomaxW (rd rs1 rs2 : Reg) (_aq _rl : BitVec 1) (s : State) : StepOutcome :=
  amo 4 sextLow32 (fun a b => if sltW a b then b else a) rd rs1 rs2 s

/-- `AMOMINU.W` (R535): atomic unsigned minimum. -/
def execAmominuW (rd rs1 rs2 : Reg) (_aq _rl : BitVec 1) (s : State) : StepOutcome :=
  amo 4 sextLow32 (fun a b => if ultW b a then b else a) rd rs1 rs2 s

/-- `AMOMAXU.W` (R536): atomic unsigned maximum. -/
def execAmomaxuW (rd rs1 rs2 : Reg) (_aq _rl : BitVec 1) (s : State) : StepOutcome :=
  amo 4 sextLow32 (fun a b => if ultW a b then b else a) rd rs1 rs2 s

/-- `LR.D` (R537): load-reserved. -/
def execLrD (rd rs1 : Reg) (_aq _rl : BitVec 1) (s : State) : StepOutcome := loadReserved 8 id rd rs1 s

/-- `SC.D` (R538): store-conditional. -/
def execScD (rd rs1 rs2 : Reg) (_aq _rl : BitVec 1) (s : State) : StepOutcome := storeConditional 8 rd rs1 rs2 s

/-- `AMOSWAP.D` (R539): atomic swap. -/
def execAmoswapD (rd rs1 rs2 : Reg) (_aq _rl : BitVec 1) (s : State) : StepOutcome :=
  amo 8 id (fun _ b => b) rd rs1 rs2 s

/-- `AMOADD.D` (R540): atomic add. -/
def execAmoaddD (rd rs1 rs2 : Reg) (_aq _rl : BitVec 1) (s : State) : StepOutcome :=
  amo 8 id (fun a b => a + b) rd rs1 rs2 s

/-- `AMOXOR.D` (R541): atomic exclusive or. -/
def execAmoxorD (rd rs1 rs2 : Reg) (_aq _rl : BitVec 1) (s : State) : StepOutcome :=
  amo 8 id (fun a b => a ^^^ b) rd rs1 rs2 s

/-- `AMOAND.D` (R542): atomic and. -/
def execAmoandD (rd rs1 rs2 : Reg) (_aq _rl : BitVec 1) (s : State) : StepOutcome :=
  amo 8 id (fun a b => a &&& b) rd rs1 rs2 s

/-- `AMOOR.D` (R543): atomic or. -/
def execAmoorD (rd rs1 rs2 : Reg) (_aq _rl : BitVec 1) (s : State) : StepOutcome :=
  amo 8 id (fun a b => a ||| b) rd rs1 rs2 s

/-- `AMOMIN.D` (R544): atomic signed minimum. -/
def execAmominD (rd rs1 rs2 : Reg) (_aq _rl : BitVec 1) (s : State) : StepOutcome :=
  amo 8 id (fun a b => if BitVec.slt b a then b else a) rd rs1 rs2 s

/-- `AMOMAX.D` (R545): atomic signed maximum. -/
def execAmomaxD (rd rs1 rs2 : Reg) (_aq _rl : BitVec 1) (s : State) : StepOutcome :=
  amo 8 id (fun a b => if BitVec.slt a b then b else a) rd rs1 rs2 s

/-- `AMOMINU.D` (R546): atomic unsigned minimum. -/
def execAmominuD (rd rs1 rs2 : Reg) (_aq _rl : BitVec 1) (s : State) : StepOutcome :=
  amo 8 id (fun a b => if BitVec.ult b a then b else a) rd rs1 rs2 s

/-- `AMOMAXU.D` (R547): atomic unsigned maximum. -/
def execAmomaxuD (rd rs1 rs2 : Reg) (_aq _rl : BitVec 1) (s : State) : StepOutcome :=
  amo 8 id (fun a b => if BitVec.ult a b then b else a) rd rs1 rs2 s

end Sys2Proof.Machine
end

