-- ==== Sys2Proof/Machine/ControlTransfer.lean ====
section
/-! DEFINITION. Meanings of jumps and branches (spec/41_rv64i_control_transfer.md). -/

namespace Sys2Proof.Machine

open Sys2Proof

/-- A branch of length `len`: to `pc + offset` when taken, else to the next instruction (41_rv64i_control_transfer R453). -/
def branch (len : Word) (taken : Bool) (offset : Word) (s : State) : StepOutcome :=
  .next (s.retireTo (s.pc + if taken then offset else len))

/-- A jump of length `len`: links `pc + len` into `x[rd]` and goes to `target`, which was computed before the link was
written (41_rv64i_control_transfer R451, R452). -/
def jump (len : Word) (rd : Reg) (target : Word) (s : State) : StepOutcome :=
  .next ((s.setX rd (s.pc + len)).retireTo target)

/-- `JAL` (R451): `x[rd] <- pc + 4`, `pc <- pc + J-imm`. -/
def execJal (rd : Reg) (imm : BitVec 20) (s : State) : StepOutcome := jump 4#64 rd (s.pc + immJ imm) s

/-- `JALR` (R452): `x[rd] <- pc + 4`, `pc <- (x[rs1] + imm) & ~1`. -/
def execJalr (rd rs1 : Reg) (imm : BitVec 12) (s : State) : StepOutcome :=
  jump 4#64 rd (jalrTarget (s.getX rs1) (immI imm)) s

/-- `BEQ` (R453): branch if equal. -/
def execBeq (rs1 rs2 : Reg) (imm : BitVec 12) (s : State) : StepOutcome :=
  branch 4#64 (s.getX rs1 == s.getX rs2) (immB imm) s

/-- `BNE` (R454): branch if not equal. -/
def execBne (rs1 rs2 : Reg) (imm : BitVec 12) (s : State) : StepOutcome :=
  branch 4#64 (s.getX rs1 != s.getX rs2) (immB imm) s

/-- `BLT` (R455): branch if less, signed. -/
def execBlt (rs1 rs2 : Reg) (imm : BitVec 12) (s : State) : StepOutcome :=
  branch 4#64 ((s.getX rs1).slt (s.getX rs2)) (immB imm) s

/-- `BGE` (R456): branch if not less, signed. -/
def execBge (rs1 rs2 : Reg) (imm : BitVec 12) (s : State) : StepOutcome :=
  branch 4#64 (!(s.getX rs1).slt (s.getX rs2)) (immB imm) s

/-- `BLTU` (R457): branch if less, unsigned. -/
def execBltu (rs1 rs2 : Reg) (imm : BitVec 12) (s : State) : StepOutcome :=
  branch 4#64 ((s.getX rs1).ult (s.getX rs2)) (immB imm) s

/-- `BGEU` (R458): branch if not less, unsigned. -/
def execBgeu (rs1 rs2 : Reg) (imm : BitVec 12) (s : State) : StepOutcome :=
  branch 4#64 (!(s.getX rs1).ult (s.getX rs2)) (immB imm) s

end Sys2Proof.Machine
end

