-- ==== Sys2Proof/Machine/Flags.lean ====
section
/-! DEFINITION. The floating-point status flags, the dynamic rounding mode and the enabling of the floating-point unit
(spec/10_state.md R48, R49, R86; spec/45_f_single.md R552 to R554). The hart has no other condition flags (10_state R45). -/

namespace Sys2Proof.Machine

open Sys2Proof

/-- `fcsr.fflags` (10_state R48). -/
def State.fflags (s : State) : FFlags := slice s.fcsr 0 5

/-- `fcsr.frm` (10_state R49). -/
def State.frm (s : State) : BitVec 3 := slice s.fcsr 5 3

/-- `mstatus.FS <- 3` (10_state R86). -/
def State.dirtyFs (s : State) : State := { s with mstatus := s.mstatus ||| 0x6000#64 }

/-- `accrue(fl)`: ORs the flags into `fcsr.fflags`; a non-empty set makes `FS` Dirty (45_f_single R553). -/
def State.accrue (s : State) (fl : FFlags) : State :=
  if fl = 0#5 then s else { s.dirtyFs with fcsr := s.fcsr ||| fl.zeroExtend 8 }

/-- Whether the floating-point unit is on: `mstatus.FS != 0` (45_f_single R554). -/
def State.fpEnabled (s : State) : Bool := s.fs != 0#2

/-- `RoundingMode(rmfield)` (45_f_single R552); `none` raises illegal instruction. -/
def State.roundingMode (s : State) (rm : RmField) : Option RoundingMode :=
  RoundingMode.ofBits (if rm = 7#3 then s.frm else rm)

/-- `RequireFP()` before the effect `k` of instruction `i` (45_f_single R554). -/
def requireFp (i : Instr) (s : State) (k : StepOutcome) : StepOutcome := if s.fpEnabled then k else illegal i s

/-- `RequireFP(); m = RoundingMode(rm)` before the effect `k` (45_f_single R552, R554). -/
def requireFpRm (i : Instr) (rm : RmField) (s : State) (k : RoundingMode → StepOutcome) : StepOutcome :=
  requireFp i s (match s.roundingMode rm with
    | some m => k m
    | none => illegal i s)

/-- `accrue(fl); f[rd] <- v` and go on. -/
def writeFp (rd : Reg) (r : Word × FFlags) (s : State) : StepOutcome :=
  .next (((s.accrue r.2).setF rd r.1).retire 4#64)

/-- `accrue(fl); f[rd] <- box_S(v)` and go on (45_f_single R550). -/
def writeFpS (rd : Reg) (r : Word × FFlags) (s : State) : StepOutcome := writeFp rd (boxS r.1, r.2) s

/-- `accrue(fl); x[rd] <- v` and go on. -/
def writeFpX (rd : Reg) (r : Word × FFlags) (s : State) : StepOutcome :=
  .next (((s.accrue r.2).setX rd r.1).retire 4#64)

end Sys2Proof.Machine
end

