-- ==== Sys2Proof/Machine/LoadStore.lean ====
section
/-! DEFINITION. Meanings of loads, stores and `FENCE` (spec/42_rv64i_load_store_fence.md). -/

namespace Sys2Proof.Machine

open Sys2Proof

/-- A load of `n` bytes at `va` into `x[rd]`, extended by `ext` (42_rv64i_load_store_fence R470). -/
def loadX (len : Word) (n : Nat) (ext : Word → Word) (rd : Reg) (va : Word) (s : State) : StepOutcome :=
  complete len ((memRead s va n).bind fun v s1 => .ok () (s1.setX rd (ext v)))

/-- A store of the low `n` bytes of `v` at `va` (42_rv64i_load_store_fence R470). -/
def storeMemory (len : Word) (n : Nat) (va v : Word) (s : State) : StepOutcome := complete len (memWrite s va n v)

/-- `LB` (R471): load byte, sign-extended. -/
def execLb (rd rs1 : Reg) (imm : BitVec 12) (s : State) : StepOutcome :=
  loadX 4#64 1 (fun v => sext64 (slice v 0 8)) rd (s.effAddr rs1 imm) s

/-- `LH` (R472): load halfword, sign-extended. -/
def execLh (rd rs1 : Reg) (imm : BitVec 12) (s : State) : StepOutcome :=
  loadX 4#64 2 (fun v => sext64 (slice v 0 16)) rd (s.effAddr rs1 imm) s

/-- `LW` (R473): load word, sign-extended. -/
def execLw (rd rs1 : Reg) (imm : BitVec 12) (s : State) : StepOutcome :=
  loadX 4#64 4 sextLow32 rd (s.effAddr rs1 imm) s

/-- `LBU` (R474): load byte, zero-extended. -/
def execLbu (rd rs1 : Reg) (imm : BitVec 12) (s : State) : StepOutcome := loadX 4#64 1 id rd (s.effAddr rs1 imm) s

/-- `LHU` (R475): load halfword, zero-extended. -/
def execLhu (rd rs1 : Reg) (imm : BitVec 12) (s : State) : StepOutcome := loadX 4#64 2 id rd (s.effAddr rs1 imm) s

/-- `LWU` (R476): load word, zero-extended. -/
def execLwu (rd rs1 : Reg) (imm : BitVec 12) (s : State) : StepOutcome := loadX 4#64 4 id rd (s.effAddr rs1 imm) s

/-- `LD` (R477): load doubleword. -/
def execLd (rd rs1 : Reg) (imm : BitVec 12) (s : State) : StepOutcome := loadX 4#64 8 id rd (s.effAddr rs1 imm) s

/-- `SB` (R478): store byte. -/
def execSb (rs1 rs2 : Reg) (imm : BitVec 12) (s : State) : StepOutcome :=
  storeMemory 4#64 1 (s.effAddr rs1 imm) (s.getX rs2) s

/-- `SH` (R479): store halfword. -/
def execSh (rs1 rs2 : Reg) (imm : BitVec 12) (s : State) : StepOutcome :=
  storeMemory 4#64 2 (s.effAddr rs1 imm) (s.getX rs2) s

/-- `SW` (R480): store word. -/
def execSw (rs1 rs2 : Reg) (imm : BitVec 12) (s : State) : StepOutcome :=
  storeMemory 4#64 4 (s.effAddr rs1 imm) (s.getX rs2) s

/-- `SD` (R481): store doubleword. -/
def execSd (rs1 rs2 : Reg) (imm : BitVec 12) (s : State) : StepOutcome :=
  storeMemory 4#64 8 (s.effAddr rs1 imm) (s.getX rs2) s

/-- `FENCE` (R489): orders nothing that is not ordered already; every field value executes alike. -/
def execFence (_fm _pred _succ : BitVec 4) (_rs1 _rd : Reg) (s : State) : StepOutcome := .next (s.retire 4#64)

end Sys2Proof.Machine
end

