-- ==== Sys2Proof/Machine/FloatSingle.lean ====
section
/-! DEFINITION. Meanings of the S extension (spec/45_f_single.md). -/

namespace Sys2Proof.Machine

open Sys2Proof

/-- A load of `n` bytes at `va` into `f[rd]`, boxed by `box` (45_f_single R560, 46_d_double R610). -/
def loadF (len : Word) (n : Nat) (box : Word → Word) (rd : Reg) (va : Word) (s : State) : StepOutcome :=
  complete len ((memRead s va n).bind fun v s1 => .ok () (s1.setF rd (box v)))

/-- `FLW` (R560): load a single, boxed. -/
def execFlw (rd rs1 : Reg) (imm : BitVec 12) (s : State) : StepOutcome :=
  requireFp (.flw rd rs1 imm) s (loadF 4#64 4 boxS rd (s.effAddr rs1 imm) s)

/-- `FSW` (R561): store the raw low word. -/
def execFsw (rs1 rs2 : Reg) (imm : BitVec 12) (s : State) : StepOutcome :=
  requireFp (.fsw rs1 rs2 imm) s (storeMemory 4#64 4 (s.effAddr rs1 imm) (s.getF rs2) s)

/-- `FMADD.S` (R562): fused `a*b + c`. -/
def execFmaddS (rd rs1 rs2 rs3 : Reg) (rm : RmField) (s : State) : StepOutcome :=
  requireFpRm (.fmaddS rd rs1 rs2 rs3 rm) rm s fun m =>
    writeFpS rd (fma .single m (s.getS rs1) (s.getS rs2) (s.getS rs3)) s

/-- `FMSUB.S` (R563): fused `a*b - c`. -/
def execFmsubS (rd rs1 rs2 rs3 : Reg) (rm : RmField) (s : State) : StepOutcome :=
  requireFpRm (.fmsubS rd rs1 rs2 rs3 rm) rm s fun m =>
    writeFpS rd (fma .single m (s.getS rs1) (s.getS rs2) (s.getS rs3 ^^^ FloatFmt.signMask .single)) s

/-- `FNMSUB.S` (R564): fused `-(a*b) + c`. -/
def execFnmsubS (rd rs1 rs2 rs3 : Reg) (rm : RmField) (s : State) : StepOutcome :=
  requireFpRm (.fnmsubS rd rs1 rs2 rs3 rm) rm s fun m =>
    writeFpS rd (fma .single m (s.getS rs1 ^^^ FloatFmt.signMask .single) (s.getS rs2) (s.getS rs3)) s

/-- `FNMADD.S` (R565): fused `-(a*b) - c`. -/
def execFnmaddS (rd rs1 rs2 rs3 : Reg) (rm : RmField) (s : State) : StepOutcome :=
  requireFpRm (.fnmaddS rd rs1 rs2 rs3 rm) rm s fun m =>
    writeFpS rd 
      (fma .single m (s.getS rs1 ^^^ FloatFmt.signMask .single) (s.getS rs2) (s.getS rs3 ^^^ FloatFmt.signMask .single)) s

/-- `FADD.S` (R566): sum. -/
def execFaddS (rd rs1 rs2 : Reg) (rm : RmField) (s : State) : StepOutcome :=
  requireFpRm (.faddS rd rs1 rs2 rm) rm s fun m => writeFpS rd (fadd .single m (s.getS rs1) (s.getS rs2)) s

/-- `FSUB.S` (R567): difference. -/
def execFsubS (rd rs1 rs2 : Reg) (rm : RmField) (s : State) : StepOutcome :=
  requireFpRm (.fsubS rd rs1 rs2 rm) rm s fun m => writeFpS rd (fsub .single m (s.getS rs1) (s.getS rs2)) s

/-- `FMUL.S` (R568): product. -/
def execFmulS (rd rs1 rs2 : Reg) (rm : RmField) (s : State) : StepOutcome :=
  requireFpRm (.fmulS rd rs1 rs2 rm) rm s fun m => writeFpS rd (fmul .single m (s.getS rs1) (s.getS rs2)) s

/-- `FDIV.S` (R569): quotient. -/
def execFdivS (rd rs1 rs2 : Reg) (rm : RmField) (s : State) : StepOutcome :=
  requireFpRm (.fdivS rd rs1 rs2 rm) rm s fun m => writeFpS rd (fdiv .single m (s.getS rs1) (s.getS rs2)) s

/-- `FSQRT.S` (R570): square root. -/
def execFsqrtS (rd rs1 : Reg) (rm : RmField) (s : State) : StepOutcome :=
  requireFpRm (.fsqrtS rd rs1 rm) rm s fun m => writeFpS rd (fsqrt .single m (s.getS rs1)) s

/-- `FSGNJ.S` (R571): sign injection, sign of `rs2`. -/
def execFsgnjS (rd rs1 rs2 : Reg) (s : State) : StepOutcome :=
  requireFp (.fsgnjS rd rs1 rs2) s (writeFpS rd (fsgnj .single (s.getS rs1) (s.getS rs2), .none) s)

/-- `FSGNJN.S` (R572): sign injection, opposite sign of `rs2`. -/
def execFsgnjnS (rd rs1 rs2 : Reg) (s : State) : StepOutcome :=
  requireFp (.fsgnjnS rd rs1 rs2) s (writeFpS rd (fsgnjn .single (s.getS rs1) (s.getS rs2), .none) s)

/-- `FSGNJX.S` (R573): sign injection, exclusive or of the signs. -/
def execFsgnjxS (rd rs1 rs2 : Reg) (s : State) : StepOutcome :=
  requireFp (.fsgnjxS rd rs1 rs2) s (writeFpS rd (fsgnjx .single (s.getS rs1) (s.getS rs2), .none) s)

/-- `FMIN.S` (R574): minimum. -/
def execFminS (rd rs1 rs2 : Reg) (s : State) : StepOutcome :=
  requireFp (.fminS rd rs1 rs2) s (writeFpS rd (fmin .single (s.getS rs1) (s.getS rs2)) s)

/-- `FMAX.S` (R575): maximum. -/
def execFmaxS (rd rs1 rs2 : Reg) (s : State) : StepOutcome :=
  requireFp (.fmaxS rd rs1 rs2) s (writeFpS rd (fmax .single (s.getS rs1) (s.getS rs2)) s)

/-- `FCVT.W.S` (R576): to signed 32-bit integer. -/
def execFcvtWS (rd rs1 : Reg) (rm : RmField) (s : State) : StepOutcome :=
  requireFpRm (.fcvtWS rd rs1 rm) rm s fun m => writeFpX rd (fToInt .single .w m (s.getS rs1)) s

/-- `FCVT.WU.S` (R577): to unsigned 32-bit integer, sign-extended. -/
def execFcvtWUS (rd rs1 : Reg) (rm : RmField) (s : State) : StepOutcome :=
  requireFpRm (.fcvtWUS rd rs1 rm) rm s fun m => writeFpX rd (fToInt .single .wu m (s.getS rs1)) s

/-- `FMV.X.W` (R578): move the raw low word. -/
def execFmvXW (rd rs1 : Reg) (s : State) : StepOutcome :=
  requireFp (.fmvXW rd rs1) s (writeX 4#64 rd (sextLow32 (s.getF rs1)) s)

/-- `FEQ.S` (R579): quiet equality. -/
def execFeqS (rd rs1 rs2 : Reg) (s : State) : StepOutcome :=
  requireFp (.feqS rd rs1 rs2) s (writeFpX rd (feq .single (s.getS rs1) (s.getS rs2)) s)

/-- `FLT.S` (R580): signaling less than. -/
def execFltS (rd rs1 rs2 : Reg) (s : State) : StepOutcome :=
  requireFp (.fltS rd rs1 rs2) s (writeFpX rd (flt .single (s.getS rs1) (s.getS rs2)) s)

/-- `FLE.S` (R581): signaling less or equal. -/
def execFleS (rd rs1 rs2 : Reg) (s : State) : StepOutcome :=
  requireFp (.fleS rd rs1 rs2) s (writeFpX rd (fle .single (s.getS rs1) (s.getS rs2)) s)

/-- `FCLASS.S` (R582): classify. -/
def execFclassS (rd rs1 : Reg) (s : State) : StepOutcome :=
  requireFp (.fclassS rd rs1) s (writeX 4#64 rd (fclass .single (s.getS rs1)) s)

/-- `FCVT.S.W` (R583): from signed 32-bit integer. -/
def execFcvtSW (rd rs1 : Reg) (rm : RmField) (s : State) : StepOutcome :=
  requireFpRm (.fcvtSW rd rs1 rm) rm s fun m => writeFpS rd (intToF .single .w m (s.getX rs1)) s

/-- `FCVT.S.WU` (R584): from unsigned 32-bit integer. -/
def execFcvtSWU (rd rs1 : Reg) (rm : RmField) (s : State) : StepOutcome :=
  requireFpRm (.fcvtSWU rd rs1 rm) rm s fun m => writeFpS rd (intToF .single .wu m (s.getX rs1)) s

/-- `FMV.W.X` (R585): move the raw low word, boxed. -/
def execFmvWX (rd rs1 : Reg) (s : State) : StepOutcome :=
  requireFp (.fmvWX rd rs1) s (writeFpS rd (s.getX rs1, .none) s)

/-- `FCVT.L.S` (R586): to signed 64-bit integer. -/
def execFcvtLS (rd rs1 : Reg) (rm : RmField) (s : State) : StepOutcome :=
  requireFpRm (.fcvtLS rd rs1 rm) rm s fun m => writeFpX rd (fToInt .single .l m (s.getS rs1)) s

/-- `FCVT.LU.S` (R587): to unsigned 64-bit integer. -/
def execFcvtLUS (rd rs1 : Reg) (rm : RmField) (s : State) : StepOutcome :=
  requireFpRm (.fcvtLUS rd rs1 rm) rm s fun m => writeFpX rd (fToInt .single .lu m (s.getS rs1)) s

/-- `FCVT.S.L` (R588): from signed 64-bit integer. -/
def execFcvtSL (rd rs1 : Reg) (rm : RmField) (s : State) : StepOutcome :=
  requireFpRm (.fcvtSL rd rs1 rm) rm s fun m => writeFpS rd (intToF .single .l m (s.getX rs1)) s

/-- `FCVT.S.LU` (R589): from unsigned 64-bit integer. -/
def execFcvtSLU (rd rs1 : Reg) (rm : RmField) (s : State) : StepOutcome :=
  requireFpRm (.fcvtSLU rd rs1 rm) rm s fun m => writeFpS rd (intToF .single .lu m (s.getX rs1)) s

end Sys2Proof.Machine
end

