-- ==== Sys2Proof/Machine/System.lean ====
section
/-! DEFINITION. Meanings of the system instructions (spec/48_privileged_system.md). -/

namespace Sys2Proof.Machine

open Sys2Proof

/-- The environment-call exception of a mode (48_privileged_system R670). -/
def ecallException (p : Priv) : Exc :=
  match p with
  | .user => .environmentCallFromUMode
  | .supervisor => .environmentCallFromSMode
  | .machine => .environmentCallFromMMode

/-- The breakpoint exception with its own `pc` as the trap value (48_privileged_system R671, 49_c_compressed R732). -/
def breakpoint (s : State) : StepOutcome := .next (s.takeException .breakpoint s.pc)

/-- `SRET` is illegal in U-mode, and in S-mode with `TSR` (48_privileged_system R673). -/
def State.sretAllowed (s : State) : Bool :=
  match s.priv with
  | .user => false
  | .supervisor => !s.tsr
  | .machine => true

/-- `SFENCE.VMA` is illegal in U-mode, and in S-mode with `TVM` (48_privileged_system R675). -/
def State.sfenceAllowed (s : State) : Bool :=
  match s.priv with
  | .user => false
  | .supervisor => !s.tvm
  | .machine => true

/-- `WFI` is illegal below M-mode with `TW` (48_privileged_system R674). -/
def State.wfiAllowed (s : State) : Bool := s.priv == .machine || !s.tw

/-- A trap return that has set `pc` retires there. -/
def State.retireHere (s : State) : State := s.retireTo s.pc

/-- `ECALL` (R670): environment call: always raises. -/
def execEcall (s : State) : StepOutcome := .next (s.takeException (ecallException s.priv) 0#64)

/-- `EBREAK` (R671): breakpoint: always raises. -/
def execEbreak (s : State) : StepOutcome := breakpoint s

/-- `MRET` (R672): return from an M-mode trap. -/
def execMret (s : State) : StepOutcome :=
  if s.priv = .machine then .next s.returnFromM.retireHere else illegal .mret s

/-- `SRET` (R673): return from an S-mode trap. -/
def execSret (s : State) : StepOutcome := if s.sretAllowed then .next s.returnFromS.retireHere else illegal .sret s

/-- `WFI` (R674): retires, then waits unless an enabled interrupt is pending. -/
def execWfi (s : State) : StepOutcome :=
  if s.wfiAllowed then .next { s.retire 4#64 with idle := s.idle || (s.mip &&& s.mie) == 0#64 } else illegal .wfi s

/-- `SFENCE.VMA` (R675): flushes all three TLBs, whatever the operands hold. -/
def execSfenceVma (rs1 rs2 : Reg) (s : State) : StepOutcome :=
  if s.sfenceAllowed then .next (s.flushTlbs.retire 4#64) else illegal (.sfenceVma rs1 rs2) s

end Sys2Proof.Machine
end

