-- ==== Sys2Proof/Machine/Compressed.lean ====
section
/-! DEFINITION. Meanings of the compressed instructions: their expansions with `ilen = 2` (spec/49_c_compressed.md R700). -/

namespace Sys2Proof.Machine

open Sys2Proof

/-- `C.ADDI4SPN` (R701): `addi rd, x2, nzuimm`. -/
def execCAddi4spn (rd : CReg) (nzuimm : BitVec 8) (s : State) : StepOutcome :=
  writeX 2#64 (cReg rd) (s.getX spReg + immSpn nzuimm) s

/-- `C.FLD` (R702): `fld`. -/
def execCFld (rd rs1 : CReg) (uimm : BitVec 5) (s : State) : StepOutcome :=
  requireFp (.cFld rd rs1 uimm) s (loadF 2#64 8 id (cReg rd) (s.getX (cReg rs1) + offD uimm) s)

/-- `C.LW` (R703): `lw`. -/
def execCLw (rd rs1 : CReg) (uimm : BitVec 5) (s : State) : StepOutcome :=
  loadX 2#64 4 sextLow32 (cReg rd) (s.getX (cReg rs1) + offW uimm) s

/-- `C.LD` (R704): `ld`. -/
def execCLd (rd rs1 : CReg) (uimm : BitVec 5) (s : State) : StepOutcome :=
  loadX 2#64 8 id (cReg rd) (s.getX (cReg rs1) + offD uimm) s

/-- `C.FSD` (R705): `fsd`. -/
def execCFsd (rs1 rs2 : CReg) (uimm : BitVec 5) (s : State) : StepOutcome :=
  requireFp (.cFsd rs1 rs2 uimm) s (storeMemory 2#64 8 (s.getX (cReg rs1) + offD uimm) (s.getF (cReg rs2)) s)

/-- `C.SW` (R706): `sw`. -/
def execCSw (rs1 rs2 : CReg) (uimm : BitVec 5) (s : State) : StepOutcome :=
  storeMemory 2#64 4 (s.getX (cReg rs1) + offW uimm) (s.getX (cReg rs2)) s

/-- `C.SD` (R707): `sd`. -/
def execCSd (rs1 rs2 : CReg) (uimm : BitVec 5) (s : State) : StepOutcome :=
  storeMemory 2#64 8 (s.getX (cReg rs1) + offD uimm) (s.getX (cReg rs2)) s

/-- `C.NOP` (R708): no operation. -/
def execCNop (_imm : BitVec 6) (s : State) : StepOutcome := .next (s.retire 2#64)

/-- `C.ADDI` (R709): `addi rd, rd, imm`. -/
def execCAddi (rd : Reg) (imm : BitVec 6) (s : State) : StepOutcome := writeX 2#64 rd (s.getX rd + immC6 imm) s

/-- `C.ADDIW` (R710): `addiw rd, rd, imm`. -/
def execCAddiw (rd : Reg) (imm : BitVec 6) (s : State) : StepOutcome :=
  writeX 2#64 rd (sextLow32 (s.getX rd + immC6 imm)) s

/-- `C.LI` (R711): `addi rd, x0, imm`. -/
def execCLi (rd : Reg) (imm : BitVec 6) (s : State) : StepOutcome := writeX 2#64 rd (immC6 imm) s

/-- `C.ADDI16SP` (R712): `addi x2, x2, nzimm`. -/
def execCAddi16sp (nzimm : BitVec 6) (s : State) : StepOutcome := writeX 2#64 spReg (s.getX spReg + imm16sp nzimm) s

/-- `C.LUI` (R713): `lui rd, nzimm`. -/
def execCLui (rd : Reg) (nzimm : BitVec 6) (s : State) : StepOutcome := writeX 2#64 rd (immCLui nzimm) s

/-- `C.SRLI` (R714): `srli`. -/
def execCSrli (rd : CReg) (shamt : BitVec 6) (s : State) : StepOutcome :=
  writeX 2#64 (cReg rd) (s.getX (cReg rd) >>> shamt.toNat) s

/-- `C.SRAI` (R715): `srai`. -/
def execCSrai (rd : CReg) (shamt : BitVec 6) (s : State) : StepOutcome :=
  writeX 2#64 (cReg rd) ((s.getX (cReg rd)).sshiftRight shamt.toNat) s

/-- `C.ANDI` (R716): `andi`. -/
def execCAndi (rd : CReg) (imm : BitVec 6) (s : State) : StepOutcome :=
  writeX 2#64 (cReg rd) (s.getX (cReg rd) &&& immC6 imm) s

/-- `C.SUB` (R717): `sub rd, rd, rs2`. -/
def execCSub (rd rs2 : CReg) (s : State) : StepOutcome :=
  writeX 2#64 (cReg rd) (s.getX (cReg rd) - s.getX (cReg rs2)) s

/-- `C.XOR` (R718): `xor rd, rd, rs2`. -/
def execCXor (rd rs2 : CReg) (s : State) : StepOutcome :=
  writeX 2#64 (cReg rd) (s.getX (cReg rd) ^^^ s.getX (cReg rs2)) s

/-- `C.OR` (R719): `or rd, rd, rs2`. -/
def execCOr (rd rs2 : CReg) (s : State) : StepOutcome :=
  writeX 2#64 (cReg rd) (s.getX (cReg rd) ||| s.getX (cReg rs2)) s

/-- `C.AND` (R720): `and rd, rd, rs2`. -/
def execCAnd (rd rs2 : CReg) (s : State) : StepOutcome :=
  writeX 2#64 (cReg rd) (s.getX (cReg rd) &&& s.getX (cReg rs2)) s

/-- `C.SUBW` (R721): `subw rd, rd, rs2`. -/
def execCSubw (rd rs2 : CReg) (s : State) : StepOutcome :=
  writeX 2#64 (cReg rd) (sextLow32 (s.getX (cReg rd) - s.getX (cReg rs2))) s

/-- `C.ADDW` (R722): `addw rd, rd, rs2`. -/
def execCAddw (rd rs2 : CReg) (s : State) : StepOutcome :=
  writeX 2#64 (cReg rd) (sextLow32 (s.getX (cReg rd) + s.getX (cReg rs2))) s

/-- `C.J` (R723): `jal x0, offset`. -/
def execCJ (imm : BitVec 11) (s : State) : StepOutcome := .next (s.retireTo (s.pc + immCJ imm))

/-- `C.BEQZ` (R724): `beq rs1, x0, offset`. -/
def execCBeqz (rs1 : CReg) (imm : BitVec 8) (s : State) : StepOutcome :=
  branch 2#64 (s.getX (cReg rs1) == 0#64) (immCB imm) s

/-- `C.BNEZ` (R725): `bne rs1, x0, offset`. -/
def execCBnez (rs1 : CReg) (imm : BitVec 8) (s : State) : StepOutcome :=
  branch 2#64 (s.getX (cReg rs1) != 0#64) (immCB imm) s

/-- `C.SLLI` (R726): `slli rd, rd, shamt`. -/
def execCSlli (rd : Reg) (shamt : BitVec 6) (s : State) : StepOutcome := writeX 2#64 rd (s.getX rd <<< shamt.toNat) s

/-- `C.FLDSP` (R727): `fld rd, uimm(x2)`. -/
def execCFldsp (rd : Reg) (uimm : BitVec 6) (s : State) : StepOutcome :=
  requireFp (.cFldsp rd uimm) s (loadF 2#64 8 id rd (s.getX spReg + offD uimm) s)

/-- `C.LWSP` (R728): `lw rd, uimm(x2)`. -/
def execCLwsp (rd : Reg) (uimm : BitVec 6) (s : State) : StepOutcome :=
  loadX 2#64 4 sextLow32 rd (s.getX spReg + offW uimm) s

/-- `C.LDSP` (R729): `ld rd, uimm(x2)`. -/
def execCLdsp (rd : Reg) (uimm : BitVec 6) (s : State) : StepOutcome :=
  loadX 2#64 8 id rd (s.getX spReg + offD uimm) s

/-- `C.JR` (R730): `jalr x0, 0(rs1)`. -/
def execCJr (rs1 : Reg) (s : State) : StepOutcome := .next (s.retireTo (jalrTarget (s.getX rs1) 0#64))

/-- `C.MV` (R731): `add rd, x0, rs2`. -/
def execCMv (rd rs2 : Reg) (s : State) : StepOutcome := writeX 2#64 rd (s.getX rs2) s

/-- `C.EBREAK` (R732): `ebreak`. -/
def execCEbreak (s : State) : StepOutcome := breakpoint s

/-- `C.JALR` (R733): `jalr x1, 0(rs1)`, linking `pc + 2`. -/
def execCJalr (rs1 : Reg) (s : State) : StepOutcome := jump 2#64 raReg (jalrTarget (s.getX rs1) 0#64) s

/-- `C.ADD` (R734): `add rd, rd, rs2`. -/
def execCAdd (rd rs2 : Reg) (s : State) : StepOutcome := writeX 2#64 rd (s.getX rd + s.getX rs2) s

/-- `C.FSDSP` (R735): `fsd rs2, uimm(x2)`. -/
def execCFsdsp (rs2 : Reg) (uimm : BitVec 6) (s : State) : StepOutcome :=
  requireFp (.cFsdsp rs2 uimm) s (storeMemory 2#64 8 (s.getX spReg + offD uimm) (s.getF rs2) s)

/-- `C.SWSP` (R736): `sw rs2, uimm(x2)`. -/
def execCSwsp (rs2 : Reg) (uimm : BitVec 6) (s : State) : StepOutcome :=
  storeMemory 2#64 4 (s.getX spReg + offW uimm) (s.getX rs2) s

/-- `C.SDSP` (R737): `sd rs2, uimm(x2)`. -/
def execCSdsp (rs2 : Reg) (uimm : BitVec 6) (s : State) : StepOutcome :=
  storeMemory 2#64 8 (s.getX spReg + offD uimm) (s.getX rs2) s

end Sys2Proof.Machine
end

