-- ==== Sys2Proof/Machine/FloatDouble.lean ====
section
/-! DEFINITION. Meanings of the D extension (spec/46_d_double.md). -/

namespace Sys2Proof.Machine

open Sys2Proof

/-- `FLD` (R610): load a double. -/
def execFld (rd rs1 : Reg) (imm : BitVec 12) (s : State) : StepOutcome :=
  requireFp (.fld rd rs1 imm) s (loadF 4#64 8 id rd (s.effAddr rs1 imm) s)

/-- `FSD` (R611): store a double. -/
def execFsd (rs1 rs2 : Reg) (imm : BitVec 12) (s : State) : StepOutcome :=
  requireFp (.fsd rs1 rs2 imm) s (storeMemory 4#64 8 (s.effAddr rs1 imm) (s.getF rs2) s)

/-- `FMADD.D` (R612): fused `a*b + c`. -/
def execFmaddD (rd rs1 rs2 rs3 : Reg) (rm : RmField) (s : State) : StepOutcome :=
  requireFpRm (.fmaddD rd rs1 rs2 rs3 rm) rm s fun m =>
    writeFp rd (fma .double m (s.getF rs1) (s.getF rs2) (s.getF rs3)) s

/-- `FMSUB.D` (R613): fused `a*b - c`. -/
def execFmsubD (rd rs1 rs2 rs3 : Reg) (rm : RmField) (s : State) : StepOutcome :=
  requireFpRm (.fmsubD rd rs1 rs2 rs3 rm) rm s fun m =>
    writeFp rd (fma .double m (s.getF rs1) (s.getF rs2) (s.getF rs3 ^^^ FloatFmt.signMask .double)) s

/-- `FNMSUB.D` (R614): fused `-(a*b) + c`. -/
def execFnmsubD (rd rs1 rs2 rs3 : Reg) (rm : RmField) (s : State) : StepOutcome :=
  requireFpRm (.fnmsubD rd rs1 rs2 rs3 rm) rm s fun m =>
    writeFp rd (fma .double m (s.getF rs1 ^^^ FloatFmt.signMask .double) (s.getF rs2) (s.getF rs3)) s

/-- `FNMADD.D` (R615): fused `-(a*b) - c`. -/
def execFnmaddD (rd rs1 rs2 rs3 : Reg) (rm : RmField) (s : State) : StepOutcome :=
  requireFpRm (.fnmaddD rd rs1 rs2 rs3 rm) rm s fun m =>
    writeFp rd 
      (fma .double m (s.getF rs1 ^^^ FloatFmt.signMask .double) (s.getF rs2) (s.getF rs3 ^^^ FloatFmt.signMask .double)) s

/-- `FADD.D` (R616): sum. -/
def execFaddD (rd rs1 rs2 : Reg) (rm : RmField) (s : State) : StepOutcome :=
  requireFpRm (.faddD rd rs1 rs2 rm) rm s fun m => writeFp rd (fadd .double m (s.getF rs1) (s.getF rs2)) s

/-- `FSUB.D` (R617): difference. -/
def execFsubD (rd rs1 rs2 : Reg) (rm : RmField) (s : State) : StepOutcome :=
  requireFpRm (.fsubD rd rs1 rs2 rm) rm s fun m => writeFp rd (fsub .double m (s.getF rs1) (s.getF rs2)) s

/-- `FMUL.D` (R618): product. -/
def execFmulD (rd rs1 rs2 : Reg) (rm : RmField) (s : State) : StepOutcome :=
  requireFpRm (.fmulD rd rs1 rs2 rm) rm s fun m => writeFp rd (fmul .double m (s.getF rs1) (s.getF rs2)) s

/-- `FDIV.D` (R619): quotient. -/
def execFdivD (rd rs1 rs2 : Reg) (rm : RmField) (s : State) : StepOutcome :=
  requireFpRm (.fdivD rd rs1 rs2 rm) rm s fun m => writeFp rd (fdiv .double m (s.getF rs1) (s.getF rs2)) s

/-- `FSQRT.D` (R620): square root. -/
def execFsqrtD (rd rs1 : Reg) (rm : RmField) (s : State) : StepOutcome :=
  requireFpRm (.fsqrtD rd rs1 rm) rm s fun m => writeFp rd (fsqrt .double m (s.getF rs1)) s

/-- `FSGNJ.D` (R621): sign injection, sign of `rs2`. -/
def execFsgnjD (rd rs1 rs2 : Reg) (s : State) : StepOutcome :=
  requireFp (.fsgnjD rd rs1 rs2) s (writeFp rd (fsgnj .double (s.getF rs1) (s.getF rs2), .none) s)

/-- `FSGNJN.D` (R622): sign injection, opposite sign of `rs2`. -/
def execFsgnjnD (rd rs1 rs2 : Reg) (s : State) : StepOutcome :=
  requireFp (.fsgnjnD rd rs1 rs2) s (writeFp rd (fsgnjn .double (s.getF rs1) (s.getF rs2), .none) s)

/-- `FSGNJX.D` (R623): sign injection, exclusive or of the signs. -/
def execFsgnjxD (rd rs1 rs2 : Reg) (s : State) : StepOutcome :=
  requireFp (.fsgnjxD rd rs1 rs2) s (writeFp rd (fsgnjx .double (s.getF rs1) (s.getF rs2), .none) s)

/-- `FMIN.D` (R624): minimum. -/
def execFminD (rd rs1 rs2 : Reg) (s : State) : StepOutcome :=
  requireFp (.fminD rd rs1 rs2) s (writeFp rd (fmin .double (s.getF rs1) (s.getF rs2)) s)

/-- `FMAX.D` (R625): maximum. -/
def execFmaxD (rd rs1 rs2 : Reg) (s : State) : StepOutcome :=
  requireFp (.fmaxD rd rs1 rs2) s (writeFp rd (fmax .double (s.getF rs1) (s.getF rs2)) s)

/-- `FCVT.S.D` (R626): double to single. -/
def execFcvtSD (rd rs1 : Reg) (rm : RmField) (s : State) : StepOutcome :=
  requireFpRm (.fcvtSD rd rs1 rm) rm s fun m => writeFpS rd (fToF .double .single m (s.getF rs1)) s

/-- `FCVT.D.S` (R627): single to double; the mode is checked although the conversion is exact. -/
def execFcvtDS (rd rs1 : Reg) (rm : RmField) (s : State) : StepOutcome :=
  requireFpRm (.fcvtDS rd rs1 rm) rm s fun m => writeFp rd (fToF .single .double m (s.getS rs1)) s

/-- `FEQ.D` (R628): quiet equality. -/
def execFeqD (rd rs1 rs2 : Reg) (s : State) : StepOutcome :=
  requireFp (.feqD rd rs1 rs2) s (writeFpX rd (feq .double (s.getF rs1) (s.getF rs2)) s)

/-- `FLT.D` (R629): signaling less than. -/
def execFltD (rd rs1 rs2 : Reg) (s : State) : StepOutcome :=
  requireFp (.fltD rd rs1 rs2) s (writeFpX rd (flt .double (s.getF rs1) (s.getF rs2)) s)

/-- `FLE.D` (R630): signaling less or equal. -/
def execFleD (rd rs1 rs2 : Reg) (s : State) : StepOutcome :=
  requireFp (.fleD rd rs1 rs2) s (writeFpX rd (fle .double (s.getF rs1) (s.getF rs2)) s)

/-- `FCLASS.D` (R631): classify. -/
def execFclassD (rd rs1 : Reg) (s : State) : StepOutcome :=
  requireFp (.fclassD rd rs1) s (writeX 4#64 rd (fclass .double (s.getF rs1)) s)

/-- `FCVT.W.D` (R632): to signed 32-bit integer. -/
def execFcvtWD (rd rs1 : Reg) (rm : RmField) (s : State) : StepOutcome :=
  requireFpRm (.fcvtWD rd rs1 rm) rm s fun m => writeFpX rd (fToInt .double .w m (s.getF rs1)) s

/-- `FCVT.WU.D` (R633): to unsigned 32-bit integer, sign-extended. -/
def execFcvtWUD (rd rs1 : Reg) (rm : RmField) (s : State) : StepOutcome :=
  requireFpRm (.fcvtWUD rd rs1 rm) rm s fun m => writeFpX rd (fToInt .double .wu m (s.getF rs1)) s

/-- `FCVT.D.W` (R634): from signed 32-bit integer. -/
def execFcvtDW (rd rs1 : Reg) (rm : RmField) (s : State) : StepOutcome :=
  requireFpRm (.fcvtDW rd rs1 rm) rm s fun m => writeFp rd (intToF .double .w m (s.getX rs1)) s

/-- `FCVT.D.WU` (R635): from unsigned 32-bit integer. -/
def execFcvtDWU (rd rs1 : Reg) (rm : RmField) (s : State) : StepOutcome :=
  requireFpRm (.fcvtDWU rd rs1 rm) rm s fun m => writeFp rd (intToF .double .wu m (s.getX rs1)) s

/-- `FCVT.L.D` (R636): to signed 64-bit integer. -/
def execFcvtLD (rd rs1 : Reg) (rm : RmField) (s : State) : StepOutcome :=
  requireFpRm (.fcvtLD rd rs1 rm) rm s fun m => writeFpX rd (fToInt .double .l m (s.getF rs1)) s

/-- `FCVT.LU.D` (R637): to unsigned 64-bit integer. -/
def execFcvtLUD (rd rs1 : Reg) (rm : RmField) (s : State) : StepOutcome :=
  requireFpRm (.fcvtLUD rd rs1 rm) rm s fun m => writeFpX rd (fToInt .double .lu m (s.getF rs1)) s

/-- `FMV.X.D` (R638): move all 64 bits. -/
def execFmvXD (rd rs1 : Reg) (s : State) : StepOutcome := requireFp (.fmvXD rd rs1) s (writeX 4#64 rd (s.getF rs1) s)

/-- `FCVT.D.L` (R639): from signed 64-bit integer. -/
def execFcvtDL (rd rs1 : Reg) (rm : RmField) (s : State) : StepOutcome :=
  requireFpRm (.fcvtDL rd rs1 rm) rm s fun m => writeFp rd (intToF .double .l m (s.getX rs1)) s

/-- `FCVT.D.LU` (R640): from unsigned 64-bit integer. -/
def execFcvtDLU (rd rs1 : Reg) (rm : RmField) (s : State) : StepOutcome :=
  requireFpRm (.fcvtDLU rd rs1 rm) rm s fun m => writeFp rd (intToF .double .lu m (s.getX rs1)) s

/-- `FMV.D.X` (R641): move all 64 bits. -/
def execFmvDX (rd rs1 : Reg) (s : State) : StepOutcome :=
  requireFp (.fmvDX rd rs1) s (writeFp rd (s.getX rs1, .none) s)

end Sys2Proof.Machine
end

