-- ==== Sys2Proof/Machine/IntCompute.lean ====
section
/-! DEFINITION. Meanings of the RV64I computational instructions (spec/40_rv64i_compute.md). -/

namespace Sys2Proof.Machine

open Sys2Proof

/-- `LUI` (R401): `x[rd] <- U-imm`. -/
def execLui (rd : Reg) (imm : BitVec 20) (s : State) : StepOutcome := writeX 4#64 rd (immU imm) s

/-- `AUIPC` (R402): `x[rd] <- pc + U-imm`. -/
def execAuipc (rd : Reg) (imm : BitVec 20) (s : State) : StepOutcome := writeX 4#64 rd (s.pc + immU imm) s

/-- `ADDI` (R403): add immediate. -/
def execAddi (rd rs1 : Reg) (imm : BitVec 12) (s : State) : StepOutcome := writeX 4#64 rd (s.getX rs1 + immI imm) s

/-- `SLTI` (R404): signed set if less than immediate. -/
def execSlti (rd rs1 : Reg) (imm : BitVec 12) (s : State) : StepOutcome :=
  writeX 4#64 rd (boolWord ((s.getX rs1).slt (immI imm))) s

/-- `SLTIU` (R405): unsigned set if less than the sign-extended immediate. -/
def execSltiu (rd rs1 : Reg) (imm : BitVec 12) (s : State) : StepOutcome :=
  writeX 4#64 rd (boolWord ((s.getX rs1).ult (immI imm))) s

/-- `XORI` (R406): exclusive or immediate. -/
def execXori (rd rs1 : Reg) (imm : BitVec 12) (s : State) : StepOutcome := writeX 4#64 rd (s.getX rs1 ^^^ immI imm) s

/-- `ORI` (R407): or immediate. -/
def execOri (rd rs1 : Reg) (imm : BitVec 12) (s : State) : StepOutcome := writeX 4#64 rd (s.getX rs1 ||| immI imm) s

/-- `ANDI` (R408): and immediate. -/
def execAndi (rd rs1 : Reg) (imm : BitVec 12) (s : State) : StepOutcome := writeX 4#64 rd (s.getX rs1 &&& immI imm) s

/-- `SLLI` (R409): shift left. -/
def execSlli (rd rs1 : Reg) (shamt : BitVec 6) (s : State) : StepOutcome :=
  writeX 4#64 rd (s.getX rs1 <<< shamt.toNat) s

/-- `SRLI` (R410): shift right logical. -/
def execSrli (rd rs1 : Reg) (shamt : BitVec 6) (s : State) : StepOutcome :=
  writeX 4#64 rd (s.getX rs1 >>> shamt.toNat) s

/-- `SRAI` (R411): shift right arithmetic. -/
def execSrai (rd rs1 : Reg) (shamt : BitVec 6) (s : State) : StepOutcome :=
  writeX 4#64 rd ((s.getX rs1).sshiftRight shamt.toNat) s

/-- `ADD` (R412): add, wrapping. -/
def execAdd (rd rs1 rs2 : Reg) (s : State) : StepOutcome := writeX 4#64 rd (s.getX rs1 + s.getX rs2) s

/-- `SUB` (R413): subtract, wrapping. -/
def execSub (rd rs1 rs2 : Reg) (s : State) : StepOutcome := writeX 4#64 rd (s.getX rs1 - s.getX rs2) s

/-- `SLL` (R414): shift left by the low six bits of `rs2`. -/
def execSll (rd rs1 rs2 : Reg) (s : State) : StepOutcome :=
  writeX 4#64 rd (s.getX rs1 <<< ((s.getX rs2).toNat % 64)) s

/-- `SLT` (R415): signed set if less than. -/
def execSlt (rd rs1 rs2 : Reg) (s : State) : StepOutcome :=
  writeX 4#64 rd (boolWord ((s.getX rs1).slt (s.getX rs2))) s

/-- `SLTU` (R416): unsigned set if less than. -/
def execSltu (rd rs1 rs2 : Reg) (s : State) : StepOutcome :=
  writeX 4#64 rd (boolWord ((s.getX rs1).ult (s.getX rs2))) s

/-- `XOR` (R417): exclusive or. -/
def execXor (rd rs1 rs2 : Reg) (s : State) : StepOutcome := writeX 4#64 rd (s.getX rs1 ^^^ s.getX rs2) s

/-- `SRL` (R418): shift right logical by the low six bits of `rs2`. -/
def execSrl (rd rs1 rs2 : Reg) (s : State) : StepOutcome :=
  writeX 4#64 rd (s.getX rs1 >>> ((s.getX rs2).toNat % 64)) s

/-- `SRA` (R419): shift right arithmetic by the low six bits of `rs2`. -/
def execSra (rd rs1 rs2 : Reg) (s : State) : StepOutcome :=
  writeX 4#64 rd ((s.getX rs1).sshiftRight ((s.getX rs2).toNat % 64)) s

/-- `OR` (R420): or. -/
def execOr (rd rs1 rs2 : Reg) (s : State) : StepOutcome := writeX 4#64 rd (s.getX rs1 ||| s.getX rs2) s

/-- `AND` (R421): and. -/
def execAnd (rd rs1 rs2 : Reg) (s : State) : StepOutcome := writeX 4#64 rd (s.getX rs1 &&& s.getX rs2) s

/-- `ADDIW` (R422): add immediate, 32-bit result sign-extended. -/
def execAddiw (rd rs1 : Reg) (imm : BitVec 12) (s : State) : StepOutcome :=
  writeX 4#64 rd (sextLow32 (s.getX rs1 + immI imm)) s

/-- `SLLIW` (R423): 32-bit shift left. -/
def execSlliw (rd rs1 : Reg) (shamt : BitVec 5) (s : State) : StepOutcome :=
  writeX 4#64 rd (sext64 (low32 (s.getX rs1) <<< shamt.toNat)) s

/-- `SRLIW` (R424): 32-bit shift right logical. -/
def execSrliw (rd rs1 : Reg) (shamt : BitVec 5) (s : State) : StepOutcome :=
  writeX 4#64 rd (sext64 (low32 (s.getX rs1) >>> shamt.toNat)) s

/-- `SRAIW` (R425): 32-bit shift right arithmetic. -/
def execSraiw (rd rs1 : Reg) (shamt : BitVec 5) (s : State) : StepOutcome :=
  writeX 4#64 rd (sext64 ((low32 (s.getX rs1)).sshiftRight shamt.toNat)) s

/-- `ADDW` (R426): 32-bit add. -/
def execAddw (rd rs1 rs2 : Reg) (s : State) : StepOutcome := writeX 4#64 rd (sextLow32 (s.getX rs1 + s.getX rs2)) s

/-- `SUBW` (R427): 32-bit subtract. -/
def execSubw (rd rs1 rs2 : Reg) (s : State) : StepOutcome := writeX 4#64 rd (sextLow32 (s.getX rs1 - s.getX rs2)) s

/-- `SLLW` (R428): 32-bit shift left by the low five bits of `rs2`. -/
def execSllw (rd rs1 rs2 : Reg) (s : State) : StepOutcome :=
  writeX 4#64 rd (sext64 (low32 (s.getX rs1) <<< ((s.getX rs2).toNat % 32))) s

/-- `SRLW` (R429): 32-bit shift right logical by the low five bits of `rs2`. -/
def execSrlw (rd rs1 rs2 : Reg) (s : State) : StepOutcome :=
  writeX 4#64 rd (sext64 (low32 (s.getX rs1) >>> ((s.getX rs2).toNat % 32))) s

/-- `SRAW` (R430): 32-bit shift right arithmetic by the low five bits of `rs2`. -/
def execSraw (rd rs1 rs2 : Reg) (s : State) : StepOutcome :=
  writeX 4#64 rd (sext64 ((low32 (s.getX rs1)).sshiftRight ((s.getX rs2).toNat % 32))) s

end Sys2Proof.Machine
end

