-- ==== Sys2Proof/Machine/MulDiv.lean ====
section
/-! DEFINITION. Meanings of the M extension (spec/43_m_muldiv.md). -/

namespace Sys2Proof.Machine

open Sys2Proof

/-- The high 64 bits of an exact product. -/
def mulHigh (a b : Int) : Word := BitVec.ofInt 64 (a * b / 2 ^ 64)

/-- Signed division of `w`-bit operands: rounds toward zero; by zero gives -1; overflow gives the dividend
(43_m_muldiv R500 (c) to (e), R505). -/
def divSigned {w : Nat} (a b : BitVec w) : BitVec w :=
  if b = 0#w then BitVec.allOnes w else BitVec.ofInt w (a.toInt.tdiv b.toInt)

/-- Unsigned division: by zero gives all ones (43_m_muldiv R506). -/
def divUnsigned {w : Nat} (a b : BitVec w) : BitVec w :=
  if b = 0#w then BitVec.allOnes w else BitVec.ofNat w (a.toNat / b.toNat)

/-- Signed remainder: the sign of the dividend; by zero gives the dividend; overflow gives 0 (43_m_muldiv R507). -/
def remSigned {w : Nat} (a b : BitVec w) : BitVec w :=
  if b = 0#w then a else BitVec.ofInt w (a.toInt.tmod b.toInt)

/-- Unsigned remainder: by zero gives the dividend (43_m_muldiv R508). -/
def remUnsigned {w : Nat} (a b : BitVec w) : BitVec w :=
  if b = 0#w then a else BitVec.ofNat w (a.toNat % b.toNat)

/-- `MUL` (R501): low 64 bits of the product. -/
def execMul (rd rs1 rs2 : Reg) (s : State) : StepOutcome := writeX 4#64 rd (s.getX rs1 * s.getX rs2) s

/-- `MULH` (R502): high 64 bits, signed by signed. -/
def execMulh (rd rs1 rs2 : Reg) (s : State) : StepOutcome :=
  writeX 4#64 rd (mulHigh (s.getX rs1).toInt (s.getX rs2).toInt) s

/-- `MULHSU` (R503): high 64 bits, signed `rs1` by unsigned `rs2`. -/
def execMulhsu (rd rs1 rs2 : Reg) (s : State) : StepOutcome :=
  writeX 4#64 rd (mulHigh (s.getX rs1).toInt (s.getX rs2).toNat) s

/-- `MULHU` (R504): high 64 bits, unsigned by unsigned. -/
def execMulhu (rd rs1 rs2 : Reg) (s : State) : StepOutcome :=
  writeX 4#64 rd (mulHigh (s.getX rs1).toNat (s.getX rs2).toNat) s

/-- `DIV` (R505): signed quotient. -/
def execDiv (rd rs1 rs2 : Reg) (s : State) : StepOutcome := writeX 4#64 rd (divSigned (s.getX rs1) (s.getX rs2)) s

/-- `DIVU` (R506): unsigned quotient. -/
def execDivu (rd rs1 rs2 : Reg) (s : State) : StepOutcome := writeX 4#64 rd (divUnsigned (s.getX rs1) (s.getX rs2)) s

/-- `REM` (R507): signed remainder. -/
def execRem (rd rs1 rs2 : Reg) (s : State) : StepOutcome := writeX 4#64 rd (remSigned (s.getX rs1) (s.getX rs2)) s

/-- `REMU` (R508): unsigned remainder. -/
def execRemu (rd rs1 rs2 : Reg) (s : State) : StepOutcome := writeX 4#64 rd (remUnsigned (s.getX rs1) (s.getX rs2)) s

/-- `MULW` (R509): 32-bit product. -/
def execMulw (rd rs1 rs2 : Reg) (s : State) : StepOutcome :=
  writeX 4#64 rd (sext64 (low32 (s.getX rs1) * low32 (s.getX rs2))) s

/-- `DIVW` (R510): 32-bit signed quotient. -/
def execDivw (rd rs1 rs2 : Reg) (s : State) : StepOutcome :=
  writeX 4#64 rd (sext64 (divSigned (low32 (s.getX rs1)) (low32 (s.getX rs2)))) s

/-- `DIVUW` (R511): 32-bit unsigned quotient, sign-extended. -/
def execDivuw (rd rs1 rs2 : Reg) (s : State) : StepOutcome :=
  writeX 4#64 rd (sext64 (divUnsigned (low32 (s.getX rs1)) (low32 (s.getX rs2)))) s

/-- `REMW` (R512): 32-bit signed remainder. -/
def execRemw (rd rs1 rs2 : Reg) (s : State) : StepOutcome :=
  writeX 4#64 rd (sext64 (remSigned (low32 (s.getX rs1)) (low32 (s.getX rs2)))) s

/-- `REMUW` (R513): 32-bit unsigned remainder, sign-extended. -/
def execRemuw (rd rs1 rs2 : Reg) (s : State) : StepOutcome :=
  writeX 4#64 rd (sext64 (remUnsigned (low32 (s.getX rs1)) (low32 (s.getX rs2)))) s

end Sys2Proof.Machine
end

