-- ==== Sys2Proof/Machine/Csr.lean ====
section
/-! DEFINITION. The control and status registers: addresses, access checks, reads and writes (spec/10_state.md R46 to R86;
spec/47_zicsr_zifencei.md R650, R651). -/

namespace Sys2Proof.Machine

open Sys2Proof

/-- The implemented CSRs (10_state R46). -/
inductive Csr where
  | fflags
  | frm
  | fcsr
  | cycle
  | time
  | instret
  | hpmcounter
  | sstatus
  | sie
  | stvec
  | scounteren
  | sscratch
  | sepc
  | scause
  | stval
  | sip
  | satp
  | mvendorid
  | marchid
  | mimpid
  | mhartid
  | mstatus
  | misa
  | medeleg
  | mideleg
  | mie
  | mtvec
  | mcounteren
  | mscratch
  | mepc
  | mcause
  | mtval
  | mip
  | mcycle
  | minstret
  | mhpmcounter
  | mhpmevent
  deriving DecidableEq, Repr

/-- The CSR at an address; `none` is an unimplemented address (10_state R46). -/
def Csr.ofAddr (a : BitVec 12) : Option Csr :=
  match a.toNat with
  | 0x001 => some .fflags
  | 0x002 => some .frm
  | 0x003 => some .fcsr
  | 0xC00 => some .cycle
  | 0xC01 => some .time
  | 0xC02 => some .instret
  | 0x100 => some .sstatus
  | 0x104 => some .sie
  | 0x105 => some .stvec
  | 0x106 => some .scounteren
  | 0x140 => some .sscratch
  | 0x141 => some .sepc
  | 0x142 => some .scause
  | 0x143 => some .stval
  | 0x144 => some .sip
  | 0x180 => some .satp
  | 0xF11 => some .mvendorid
  | 0xF12 => some .marchid
  | 0xF13 => some .mimpid
  | 0xF14 => some .mhartid
  | 0x300 => some .mstatus
  | 0x301 => some .misa
  | 0x302 => some .medeleg
  | 0x303 => some .mideleg
  | 0x304 => some .mie
  | 0x305 => some .mtvec
  | 0x306 => some .mcounteren
  | 0x340 => some .mscratch
  | 0x341 => some .mepc
  | 0x342 => some .mcause
  | 0x343 => some .mtval
  | 0x344 => some .mip
  | 0xB00 => some .mcycle
  | 0xB02 => some .minstret
  | n =>
    if 0xC03 ≤ n ∧ n ≤ 0xC1F then some .hpmcounter
    else if 0xB03 ≤ n ∧ n ≤ 0xB1F then some .mhpmcounter
    else if 0x323 ≤ n ∧ n ≤ 0x33F then some .mhpmevent
    else none

/-! ## Reads -/

/-- `mstatus_read` (10_state R71): `UXL = SXL = 2`, and `SD` when `FS` is Dirty. -/
def mstatusRead (stored : Word) : Word :=
  stored ||| 0x0000000A00000000#64 ||| (if slice stored 13 2 = 3#2 then 0x8000000000000000#64 else 0#64)

/-- The bits of `mstatus` that `sstatus` shows (10_state R55). -/
def sstatusReadMask : Word := 0x80000003000C6122#64

/-- The bits of `mstatus` that a write of `sstatus` writes (10_state R55). -/
def sstatusWriteMask : Word := 0x00000000000C6122#64

/-- The stored bits of `mstatus`, `W` of 10_state R70. -/
def mstatusMask : Word := 0x00000000007E79AA#64

/-- The constant `misa` (10_state R72). -/
def misaValue : Word := 0x800000000014112D#64

/-- `CsrRead`: the read value of a CSR (10_state R48 to R85); a read has no side effect. -/
def csrRead (s : State) (c : Csr) : Word :=
  match c with
  | .fflags => zext64 s.fflags
  | .frm => zext64 s.frm
  | .fcsr => zext64 s.fcsr
  | .cycle => s.mcycle
  | .time => s.mtime
  | .instret => s.minstret
  | .hpmcounter => 0#64
  | .sstatus => mstatusRead s.mstatus &&& sstatusReadMask
  | .sie => s.mie &&& s.mideleg
  | .stvec => s.stvec
  | .scounteren => s.scounteren
  | .sscratch => s.sscratch
  | .sepc => s.sepc
  | .scause => s.scause
  | .stval => s.stval
  | .sip => s.mip &&& s.mideleg
  | .satp => s.satp
  | .mvendorid => s.cfg.mvendorid
  | .marchid => s.cfg.marchid
  | .mimpid => s.cfg.mimpid
  | .mhartid => 0#64
  | .mstatus => mstatusRead s.mstatus
  | .misa => misaValue
  | .medeleg => s.medeleg
  | .mideleg => s.mideleg
  | .mie => s.mie
  | .mtvec => s.mtvec
  | .mcounteren => s.mcounteren
  | .mscratch => s.mscratch
  | .mepc => s.mepc
  | .mcause => s.mcause
  | .mtval => s.mtval
  | .mip => s.mip
  | .mcycle => s.mcycle
  | .minstret => s.minstret
  | .mhpmcounter => 0#64
  | .mhpmevent => 0#64

/-! ## Writes -/

/-- A write of `mstatus` by a CSR instruction (10_state R70): a written `MPP` of 2 keeps the old `MPP`. -/
def State.writeMstatus (s : State) (v : Word) : State :=
  let new := mergeMask mstatusMask s.mstatus v
  s.withMstatus (if slice v 11 2 = 2#2 then setField2 new 11 (slice s.mstatus 11 2) else new)

/-- A write of `satp` (10_state R64): an illegal `MODE` makes the whole write ignored; otherwise the TLBs are flushed. -/
def State.writeSatp (s : State) (v : Word) : State :=
  let mode := slice v 60 4
  if mode = 0#4 ∨ mode = 8#4 ∨ mode = 9#4 ∨ mode = 10#4 then
    { s.flushTlbs with satp := mode ++ 0#16 ++ slice v 0 44 }
  else s

/-- `CsrWrite`: the write rule of a CSR (10_state R48 to R86). -/
def csrWrite (s : State) (c : Csr) (v : Word) : State :=
  match c with
  | .fflags => { s.dirtyFs with fcsr := slice s.fcsr 5 3 ++ slice v 0 5 }
  | .frm => { s.dirtyFs with fcsr := slice v 0 3 ++ slice s.fcsr 0 5 }
  | .fcsr => { s.dirtyFs with fcsr := slice v 0 8 }
  | .cycle => s
  | .time => s
  | .instret => s
  | .hpmcounter => s
  | .sstatus => s.withMstatus (mergeMask sstatusWriteMask s.mstatus v)
  | .sie => { s with mie := mergeMask s.mideleg s.mie v }
  | .stvec => { s with stvec := v &&& ~~~2#64 }
  | .scounteren => { s with scounteren := v &&& 7#64 }
  | .sscratch => { s with sscratch := v }
  | .sepc => { s with sepc := v &&& ~~~1#64 }
  | .scause => { s with scause := v }
  | .stval => { s with stval := v }
  | .sip => { s with mip := mergeMask (s.mideleg &&& 2#64) s.mip v }
  | .satp => s.writeSatp v
  | .mvendorid => s
  | .marchid => s
  | .mimpid => s
  | .mhartid => s
  | .mstatus => s.writeMstatus v
  | .misa => s
  | .medeleg => { s with medeleg := v &&& 0xB3FF#64 }
  | .mideleg => { s with mideleg := v &&& 0x222#64 }
  | .mie => { s with mie := v &&& 0xAAA#64 }
  | .mtvec => { s with mtvec := v &&& ~~~2#64 }
  | .mcounteren => { s with mcounteren := v &&& 7#64 }
  | .mscratch => { s with mscratch := v }
  | .mepc => { s with mepc := v &&& ~~~1#64 }
  | .mcause => { s with mcause := v }
  | .mtval => { s with mtval := v }
  | .mip => { s with mip := mergeMask 0x222#64 s.mip v }
  | .mcycle => s
  | .minstret => s
  | .mhpmcounter => s
  | .mhpmevent => s

/-! ## Access checks and the CSR instructions -/

/-- Whether a counter is readable in the current mode; its bit index is the low five address bits (10_state R51 to R54). -/
def State.counterEnabled (s : State) (i : Nat) : Bool :=
  match s.priv with
  | .machine => true
  | .supervisor => s.mcounteren.getLsbD i
  | .user => s.mcounteren.getLsbD i && s.scounteren.getLsbD i

/-- The conditions 4 to 6 of `CheckCsrAccess` do not hold (47_zicsr_zifencei R651). -/
def State.csrEnabled (s : State) (a : BitVec 12) (c : Csr) : Bool :=
  match c with
  | .fflags | .frm | .fcsr => s.fpEnabled
  | .cycle | .time | .instret | .hpmcounter => s.counterEnabled (a.toNat % 32)
  | .satp => !(s.priv == .supervisor && s.tvm)
  | .sstatus | .sie | .stvec | .scounteren | .sscratch | .sepc | .scause | .stval | .sip | .mvendorid | .marchid | .mimpid
  | .mhartid | .mstatus | .misa | .medeleg | .mideleg | .mie | .mtvec | .mcounteren | .mscratch | .mepc | .mcause | .mtval
  | .mip | .mcycle | .minstret | .mhpmcounter | .mhpmevent => true

/-- `CheckCsrAccess(csr, wr_en)` (47_zicsr_zifencei R651): the CSR if the access is allowed. -/
def State.checkCsr (s : State) (a : BitVec 12) (wrEn : Bool) : Option Csr :=
  match Csr.ofAddr a with
  | none => none
  | some c =>
    if s.priv.bits < slice a 8 2 then none
    else if wrEn = true ∧ slice a 10 2 = 3#2 then none
    else if s.csrEnabled a c then some c
    else none

/-- `CsrInstr(csr, rd_en, wr_en, new)` for instruction `i` (47_zicsr_zifencei R650). The read has no side effect, so
`rd_en` cannot be observed. -/
def csrInstr (i : Instr) (a : BitVec 12) (wrEn : Bool) (new : Word → Word) (rd : Reg) (s : State) : StepOutcome :=
  match s.checkCsr a wrEn with
  | none => illegal i s
  | some c =>
    let old := csrRead s c
    writeX 4#64 rd old (if wrEn then csrWrite s c (new old) else s)

end Sys2Proof.Machine
end

