-- ==== Sys2Proof/Machine/Zicsr.lean ====
section
/-! DEFINITION. Meanings of the CSR instructions and `FENCE.I` (spec/47_zicsr_zifencei.md). -/

namespace Sys2Proof.Machine

open Sys2Proof

/-- `CSRRW` (R653): read and write. -/
def execCsrrw (rd rs1 : Reg) (csr : BitVec 12) (s : State) : StepOutcome :=
  csrInstr (.csrrw rd rs1 csr) csr true (fun _ => s.getX rs1) rd s

/-- `CSRRS` (R654): read and set bits. No write when the field `rs1` is 0. -/
def execCsrrs (rd rs1 : Reg) (csr : BitVec 12) (s : State) : StepOutcome :=
  csrInstr (.csrrs rd rs1 csr) csr (rs1 != 0#5) (fun old => old ||| s.getX rs1) rd s

/-- `CSRRC` (R655): read and clear bits. No write when the field `rs1` is 0. -/
def execCsrrc (rd rs1 : Reg) (csr : BitVec 12) (s : State) : StepOutcome :=
  csrInstr (.csrrc rd rs1 csr) csr (rs1 != 0#5) (fun old => old &&& ~~~(s.getX rs1)) rd s

/-- `CSRRWI` (R656): read and write. -/
def execCsrrwi (rd : Reg) (uimm : BitVec 5) (csr : BitVec 12) (s : State) : StepOutcome :=
  csrInstr (.csrrwi rd uimm csr) csr true (fun _ => immCsr uimm) rd s

/-- `CSRRSI` (R657): read and set bits. No write when the field `uimm` is 0. -/
def execCsrrsi (rd : Reg) (uimm : BitVec 5) (csr : BitVec 12) (s : State) : StepOutcome :=
  csrInstr (.csrrsi rd uimm csr) csr (uimm != 0#5) (fun old => old ||| immCsr uimm) rd s

/-- `CSRRCI` (R658): read and clear bits. No write when the field `uimm` is 0. -/
def execCsrrci (rd : Reg) (uimm : BitVec 5) (csr : BitVec 12) (s : State) : StepOutcome :=
  csrInstr (.csrrci rd uimm csr) csr (uimm != 0#5) (fun old => old &&& ~~~(immCsr uimm)) rd s

/-- `FENCE.I` (R662): no operation: fetch reads memory, so it sees every earlier store. -/
def execFenceI (_imm : BitVec 12) (_rs1 _rd : Reg) (s : State) : StepOutcome := .next (s.retire 4#64)

end Sys2Proof.Machine
end

