-- ==== Sys2Proof/Machine/HostActions.lean ====
section
/-! DEFINITION. What the host does between two steps (spec/60_exceptions.md R823, R880 to R886), and what the run loop would
return (R807). -/

namespace Sys2Proof.Machine

open Sys2Proof

/-- `SetExternalInterrupt(meip_in, seip_in)` (60_exceptions R823). -/
def State.setExternalInterrupt (s : State) (meip seip : Bool) : State :=
  { s with mip := setBit (setBit s.mip 11 meip) 9 seip }

/-- `DeliverConsoleByte(b)`, when it is allowed (60_exceptions R882). -/
def State.deliverConsoleByte (s : State) : State :=
  if s.cfg.interactive = true ∧ s.cfg.iconsole.getLsbD 0 = true ∧ s.fromhostPending = false then
    match s.consoleIn with
    | b :: rest => { s with fromhost := 1#8 ++ 0#48 ++ b, fromhostPending := true, consoleIn := rest }
    | [] => s
  else s

/-- A host write of memory clears the reservation and is subject to 20_memory R264 (60_exceptions R885): it empties
the TLBs, which R264 allows for any store (DESIGN CHOICE, entry 7). Bytes outside the memory entries do not exist and are not
written (DESIGN CHOICE, entry 13). -/
def State.hostWriteMemory (s : State) (paddr : Word) (bytes : List Byte) : State :=
  match findPma s.cfg.pma paddr.toNat bytes.length with
  | some e =>
    if e.kind = .memory then { s.flushTlbs with mem := s.mem.storeBytes paddr.toNat bytes, ilrsc := none } else s
  | none => s

/-- What a host write stores in a CSR. The counters take the value (the ignored write of 10_state R83 and R84 is that of a CSR
instruction), `mip` takes all six interrupt bits, and a write of `fcsr` or one of its views leaves `mstatus.FS`, as
10_state R86 speaks of instructions; every other CSR follows its own write rule (DESIGN CHOICE, entry 13). -/
def State.hostStoreCsr (s : State) (c : Csr) (v : Word) : State :=
  match c with
  | .mcycle => { s with mcycle := v }
  | .minstret => { s with minstret := v }
  | .mip => { s with mip := v &&& 0xAAA#64 }
  | .fflags | .frm | .fcsr => { csrWrite s c v with mstatus := s.mstatus }
  | .cycle | .time | .instret | .hpmcounter | .sstatus | .sie | .stvec | .scounteren | .sscratch | .sepc | .scause | .stval
  | .sip | .satp | .mvendorid | .marchid | .mimpid | .mhartid | .mstatus | .misa | .medeleg | .mideleg | .mie | .mtvec
  | .mcounteren | .mscratch | .mepc | .mcause | .mtval | .mhpmcounter | .mhpmevent => csrWrite s c v

/-- A host write of the CSR at an address is followed by a flush of all TLBs (60_exceptions R885); at an unimplemented address
it changes nothing (DESIGN CHOICE, entry 13). -/
def State.hostWriteCsr (s : State) (addr : BitVec 12) (v : Word) : State :=
  match Csr.ofAddr addr with
  | some c => (s.hostStoreCsr c v).flushTlbs
  | none => s

/-- A host write of the reservation (60_exceptions R885). A size that 10_state R96 does not allow changes nothing (DESIGN
CHOICE, entry 13). -/
def State.hostWriteReservation (s : State) (o : Option Reservation) : State :=
  match o with
  | none => { s with ilrsc := none }
  | some r => if r.size = 4 ∨ r.size = 8 then { s with ilrsc := some r } else s

/-- The effect of one host action (60_exceptions R880: "exactly rules R881 to R885", and the deadline of R886). A host write
of an `f` register leaves `mstatus.FS` as it was: 10_state R86 speaks of instructions, and R885 is silent; a write of
`pc` clears bit 0; a write of `tohost`, `fromhost` or `mtimecmp` stores the value alone (DESIGN CHOICE, entry 13). -/
def State.applyHost (s : State) (a : HostAction) : State :=
  match a with
  | .requestExternal => { s with extReq := true }
  | .clearExternal => { s with extReq := false }
  | .resume => { s with yielded := false }
  | .setExternalInterrupt meip seip => s.setExternalInterrupt meip seip
  | .deliverConsoleByte => s.deliverConsoleByte
  | .setDeadline d => { s with mcycleEnd := d }
  | .writeX r v => s.setX r v
  | .writeF r v => { s with f := s.f.set r.toNat v r.isLt }
  | .writePc v => { s with pc := v &&& ~~~1#64 }
  | .writePriv p => { s.flushTlbs with priv := p }
  | .writeIdle b => { s with idle := b }
  | .writeYielded b => { s with yielded := b }
  | .setHalted => { s with halted := true }
  | .writeReservation r => s.hostWriteReservation r
  | .writeCsr addr v => s.hostWriteCsr addr v
  | .writeTohost v => { s with tohost := v }
  | .writeFromhost v => { s with fromhost := v }
  | .writeFromhostPending b => { s with fromhostPending := b }
  | .writeMtimecmp v => { s with mtimecmp := v }
  | .writeMemory paddr bytes => s.hostWriteMemory paddr bytes

/-- The host's actions before the coming step, which leave the queue (60_exceptions R880; DESIGN CHOICE, entry 5). -/
def State.hostTurn (s : State) : State :=
  match s.hostInputs with
  | [] => s
  | now :: later => now.foldl State.applyHost { s with hostInputs := later }

/-- Why the run loop returns (60_exceptions R807). -/
inductive RunReason where
  | halted
  | yieldedManually
  | yieldedAutomatically
  | reachedTargetMcycle
  | failed
  deriving DecidableEq, Repr

/-- The reason for which the run loop returns before the next step, if it does (60_exceptions R807). -/
def State.runStatus (s : State) : Option RunReason :=
  if s.halted then some .halted
  else if s.yielded then
    some (if slice s.tohost 48 8 = 0#8 then .yieldedAutomatically else .yieldedManually)
  else if s.extReq then some .reachedTargetMcycle
  else if s.mcycleEnd ≤ s.mcycle then some .reachedTargetMcycle
  else none

end Sys2Proof.Machine
end

