-- ==== Sys2Proof/Machine/Interrupts.lean ====
section
/-! DEFINITION. Timer sampling, the interrupt check and the idle skip (spec/60_exceptions.md R800, R802, R822, R860, R871,
R872). -/

namespace Sys2Proof.Machine

open Sys2Proof

/-- `SampleTimer()` (60_exceptions R860): sampling only sets `mip.MTIP`. -/
def State.sampleTimer (s : State) : State :=
  if s.mtimecmp ≤ s.mtime then { s with mip := setBit s.mip 7 true } else s

/-- Interrupts that are pending and enabled (60_exceptions R821). -/
def State.pend (s : State) : Word := s.mip &&& s.mie

/-- Whether interrupts handled in M-mode are globally enabled: always below M-mode (60_exceptions R802). -/
def State.mIntEnabled (s : State) : Bool := s.priv != .machine || s.mieBit

/-- Whether interrupts handled in S-mode are globally enabled: never in M-mode (60_exceptions R802). -/
def State.sIntEnabled (s : State) : Bool :=
  match s.priv with
  | .user => true
  | .supervisor => s.sieBit
  | .machine => false

/-- The interrupts that can be taken: those destined for M-mode before those destined for S-mode (60_exceptions R802). -/
def State.takeable (s : State) : Word :=
  let mSet := if s.mIntEnabled then s.pend &&& ~~~s.mideleg else 0#64
  if mSet = 0#64 then (if s.sIntEnabled then s.pend &&& s.mideleg else 0#64) else mSet

/-- The priority order: MEI, MSI, MTI, SEI, SSI, STI (60_exceptions R822). -/
def interruptOrder : List Nat := [11, 3, 7, 9, 1, 5]

/-- `PendingInterrupt()` (60_exceptions R802). -/
def State.pendingInterrupt (s : State) : Option Nat := interruptOrder.find? fun i => s.takeable.getLsbD i

/-- Takes the pending interrupt of highest priority, if any, before the fetch (60_exceptions R800, R840). -/
def State.interruptCheck (s : State) : State :=
  match s.pendingInterrupt with
  | some i => s.takeTrap true i s.pc 0#64
  | none => s

/-- `WfiSkip(mcycle_end)` (60_exceptions R872): `mtimecmp * RTC_FREQ_DIV` is an unbounded integer. -/
def State.wfiSkip (s : State) : State :=
  let t := s.mtimecmp.toNat * s.cfg.rtcFreqDiv
  if s.mip.getLsbD 7 = false ∧ t < 2 ^ 64 then { s with mcycle := BitVec.ofNat 64 (min s.mcycleEnd.toNat t) }
  else { s with mcycle := s.mcycleEnd }

end Sys2Proof.Machine
end

