-- ==== Sys2Proof/Machine/Run.lean ====
section
/-! DEFINITION. The sequencer: one step of the hart and one iteration of the run loop (spec/60_exceptions.md R800, R801, R805,
R807). -/

namespace Sys2Proof.Machine

open Sys2Proof

/-- Applies `f` to the next state of an outcome. -/
def mapNext (f : State → State) (o : StepOutcome) : StepOutcome :=
  match o with
  | .next s => .next (f s)
  | .fault r => .fault r
  | .refused r => .refused r

/-- Decodes and executes a fetched instruction; a word that is no instruction raises illegal instruction (60_exceptions
R800, 30_encoding R325). -/
def execFetched (w : Encoded) (s : State) : StepOutcome :=
  match decode w with
  | some i => exec i s
  | none => .next (s.takeException .illegalInstruction w.trapValue)

/-- Fetch, decode, execute (60_exceptions R800, R803). -/
def runInstruction (s : State) : StepOutcome :=
  match fetch s with
  | .ok w s1 => execFetched w s1
  | .raised e tval s1 => .next (s1.takeException e tval)

/-- `mcycle <- mcycle + 1`, the last action of a step (60_exceptions R805). -/
def State.tick (s : State) : State := { s with mcycle := s.mcycle + 1#64 }

/-- The interrupt check, then one instruction (60_exceptions R800). -/
def hartRun (s : State) : StepOutcome := mapNext State.tick (runInstruction s.interruptCheck)

/-- `Step()` and, when it is idle, `WfiSkip` (60_exceptions R800, R807, R871). -/
def hartStep (s : State) : StepOutcome :=
  let s1 := s.sampleTimer
  if s1.idle = true ∧ s1.pend = 0#64 then .next s1.wfiSkip
  else hartRun { s1 with idle := false }

/-- One iteration of the run loop (60_exceptions R807): a hart whose loop has returned changes nothing (R801;
DESIGN CHOICE, entry 6). -/
def runLoopStep (s : State) : StepOutcome :=
  match s.runStatus with
  | some _ => .next s
  | none => hartStep s

/-- Where the bytes of the instruction at virtual address `va` lie in physical memory. -/
def fetchPaddr (s : State) (va : Word) : Nat :=
  match translate s va .fetch with
  | .ok pa _ => pa.toNat
  | .raised _ _ _ => va.toNat

end Sys2Proof.Machine
end

