-- ==== Sys2Proof/Machine/Step.lean ====
section
/-! DEFINITION. One step of the machine: the host's turn, then one iteration of the run loop (spec/60_exceptions.md R807,
R880). -/

namespace Sys2Proof.Machine

open Sys2Proof

/-- One step. -/
def step (s : State) : Host.Outcome State Fault Refusal := runLoopStep s.hostTurn

/-- The state with an instruction of `nbits` bits, numbered as spec/opcode_table.json numbers them, stored where the next
step fetches; the bits above `nbits` are 0. It stands for loading a program from outside (DESIGN CHOICE, entry 8). -/
def State.withFetchWord (s : State) (nbits w : Nat) : State :=
  let v := w % 2 ^ nbits
  { s with mem := (s.mem.store (fetchPaddr s s.pc) 2 (v % 65536)).store (fetchPaddr s (s.pc + 2#64)) 2 (v / 65536) }

end Sys2Proof.Machine
end

