-- ==== Sys2Proof/Machine/Construct.lean ====
section
/-! DEFINITION. Reset: the construction of the machine from a configuration (spec/10_state.md R120, R121;
spec/70_reset_and_hazards.md R900, R901). `State.reset` is the machine of the configuration that supplies nothing. -/

namespace Sys2Proof.Machine

open Sys2Proof

/-- A flash drive (20_memory R211): its range, its image and its flags. -/
structure FlashDrive where
  start  : Nat
  length : Nat
  image  : List Byte
  flags  : PmaFlags := Config.flashFlags
  deriving DecidableEq, Repr

/-- A configuration (10_state R120): a value for every register of the table of 10_state R121, the images, and the parameters
of 10_state R118. The default of each field is the default of R121, 20_memory R211 or `Config.default`. What 70_reset R900
sets whatever the configuration says (the TLBs, the reservation, `fromhost_pending`) is no field. -/
structure Configuration where
  romStart       : Nat := 0x1000
  romLength      : Nat := 0xF000
  /-- "The starts, lengths and flags of this table are parameters" (20_memory R211). -/
  romFlags       : PmaFlags := Config.romFlags
  /-- The contents of ROM from its first byte, boot arguments included (DESIGN CHOICE, entry 19). -/
  romImage       : List Byte := []
  clintStart     : Nat := 0x2000000
  clintLength    : Nat := 0xC0000
  clintFlags     : PmaFlags := Config.deviceFlags
  htifStart      : Nat := 0x40008000
  htifLength     : Nat := 0x1000
  htifFlags      : PmaFlags := Config.deviceFlags
  ramStart       : Nat := 0x80000000
  ramLength      : Nat := Config.ramLength
  ramFlags       : PmaFlags := Config.ramFlags
  ramImage       : List Byte := []
  flash          : List FlashDrive := []
  rtcFreqDiv     : Nat := Config.default.rtcFreqDiv
  mvendorid      : Word := Config.default.mvendorid
  marchid        : Word := Config.default.marchid
  mimpid         : Word := Config.default.mimpid
  /-- `ihalt`: no switch of the configuration changes it (10_state R121). -/
  ihalt          : Word := 0x1#64
  consoleGetchar : Bool := false
  yieldProgress  : Bool := false
  yieldRollup    : Bool := false
  interactive    : Bool := false
  consoleIn      : List Byte := []
  mcycleEnd      : Word := 0xFFFFFFFFFFFFFFFF#64
  hostInputs     : List (List HostAction) := []
  x              : Vector Word 32 := Vector.replicate 32 0#64
  f              : Vector Word 32 := Vector.replicate 32 0#64
  pc             : Word := 0x1000#64
  priv           : Priv := .machine
  idle           : Bool := false
  halted         : Bool := false
  yielded        : Bool := false
  extReq         : Bool := false
  fcsr           : Byte := 0#8
  mstatus        : Word := 0#64
  medeleg        : Word := 0#64
  mideleg        : Word := 0#64
  mie            : Word := 0#64
  mip            : Word := 0#64
  mtvec          : Word := 0#64
  mcounteren     : Word := 0#64
  mscratch       : Word := 0#64
  mepc           : Word := 0#64
  mcause         : Word := 0#64
  mtval          : Word := 0#64
  stvec          : Word := 0#64
  scounteren     : Word := 0#64
  sscratch       : Word := 0#64
  sepc           : Word := 0#64
  scause         : Word := 0#64
  stval          : Word := 0#64
  satp           : Word := 0#64
  mcycle         : Word := 0#64
  minstret       : Word := 0#64
  mtimecmp       : Word := 0#64
  tohost         : Word := 0#64
  fromhost       : Word := 0#64
  deriving DecidableEq, Repr

/-- The configuration that supplies nothing. -/
def Configuration.default : Configuration := {}

/-! ## The PMA map, the images and the masks (70_reset R900, steps 1 to 3) -/

/-- Puts an entry before the first one that starts above it. -/
def insertPma (e : PmaEntry) : List PmaEntry → List PmaEntry
  | [] => [e]
  | a :: rest => if e.start < a.start then e :: a :: rest else a :: insertPma e rest

/-- The entries of the flash drives, numbered from `k`. -/
def flashEntries (k : Nat) : List FlashDrive → List PmaEntry
  | [] => []
  | d :: rest => Config.flashEntry k d.start d.length d.flags :: flashEntries (k + 1) rest

/-- The ranges of the machine, in the order in which 70_reset R900 names them. Start, length and flags are the configuration's
(20_memory R211); kinds are those of the table, and device tags are the model's (DESIGN CHOICE, entry 18). -/
def Configuration.ranges (c : Configuration) : List PmaEntry :=
  Config.romEntry c.romStart c.romLength c.romFlags :: Config.clintEntry c.clintStart c.clintLength c.clintFlags ::
    Config.htifEntry c.htifStart c.htifLength c.htifFlags :: Config.ramEntry c.ramStart c.ramLength c.ramFlags ::
      flashEntries 0 c.flash

/-- The PMA map, "sorted by start" (10_state R110). -/
def Configuration.pma (c : Configuration) : List PmaEntry := c.ranges.foldr insertPma []

/-- The contents of memory: each image from the first byte of its range, "every byte not covered by an image is 0". -/
def Configuration.memory (c : Configuration) : Memory :=
  c.flash.foldl (fun m d => m.storeBytes d.start d.image)
    ((Memory.storeBytes [] c.romStart c.romImage).storeBytes c.ramStart c.ramImage)

/-- The parameters of the step relation; the HTIF masks follow the switches (10_state R121). -/
def Configuration.parameters (c : Configuration) : Config where
  pma         := c.pma
  rtcFreqDiv  := c.rtcFreqDiv
  mvendorid   := c.mvendorid
  marchid     := c.marchid
  mimpid      := c.mimpid
  ihalt       := c.ihalt
  iconsole    := if c.consoleGetchar then 0x3#64 else 0x2#64
  iyield      := (if c.yieldProgress then 0x1#64 else 0#64) ||| (if c.yieldRollup then 0x2#64 else 0#64)
  interactive := c.interactive

/-! ## Construction -/

/-- The machine of a configuration: one assignment of all state (70_reset R900). The console output stream starts empty
(DESIGN CHOICE, entry 14). -/
def Configuration.construct (c : Configuration) : State where
  x               := c.x
  f               := c.f
  pc              := c.pc
  priv            := c.priv
  idle            := c.idle
  halted          := c.halted
  yielded         := c.yielded
  extReq          := c.extReq
  fcsr            := c.fcsr
  mstatus         := c.mstatus
  medeleg         := c.medeleg
  mideleg         := c.mideleg
  mie             := c.mie
  mip             := c.mip
  mtvec           := c.mtvec
  mcounteren      := c.mcounteren
  mscratch        := c.mscratch
  mepc            := c.mepc
  mcause          := c.mcause
  mtval           := c.mtval
  stvec           := c.stvec
  scounteren      := c.scounteren
  sscratch        := c.sscratch
  sepc            := c.sepc
  scause          := c.scause
  stval           := c.stval
  satp            := c.satp
  mcycle          := c.mcycle
  minstret        := c.minstret
  ilrsc           := none
  mtimecmp        := c.mtimecmp
  tohost          := c.tohost
  fromhost        := c.fromhost
  fromhostPending := false
  consoleOut      := []
  consoleIn       := c.consoleIn
  tlbRead         := []
  tlbWrite        := []
  tlbCode         := []
  mem             := c.memory
  mcycleEnd       := c.mcycleEnd
  hostInputs      := c.hostInputs
  cfg             := c.parameters

/-! ## Which configurations are accepted (70_reset R901) -/

/-- The entries start at `lo` or above and no two overlap, in the order of the list (10_state R110). -/
def disjointFrom : Nat → List PmaEntry → Bool
  | _, [] => true
  | lo, e :: rest => decide (lo ≤ e.start) && disjointFrom (e.start + e.length) rest

/-- Any flags are accepted: 70_reset R901 names no constraint on them (DESIGN CHOICE, entry 19). The map is one of at most eight drives and of page-aligned, page-multiple, disjoint ranges (10_state R110, 00_scope R14),
and each image fits its range. -/
def Configuration.legalMap (c : Configuration) : Bool :=
  decide (c.flash.length ≤ 8) && (c.pma.all fun e => e.start % 4096 == 0 && e.length % 4096 == 0) && disjointFrom 0 c.pma &&
    decide (c.romImage.length ≤ c.romLength) && decide (c.ramImage.length ≤ c.ramLength) &&
    c.flash.all fun d => decide (d.image.length ≤ d.length)

/-- The bits of `w` outside `mask` are 0. -/
def fits (w mask : Word) : Bool := w &&& ~~~mask == 0#64

/-- Every register holds a value that it can hold (70_reset R901); an odd `pc` is accepted. That `mip` can hold its six
interrupt bits, and that the divisor must not be 0, is the model's reading (entry 19). -/
def Configuration.legalRegisters (c : Configuration) : Bool :=
  c.x[0] == 0#64 && fits c.mstatus mstatusMask && slice c.mstatus 11 2 != 2#2 && fits c.mepc (~~~1#64) && fits c.sepc (~~~1#64) &&
    fits c.mtvec (~~~2#64) && fits c.stvec (~~~2#64) && fits c.medeleg 0xB3FF#64 && fits c.mideleg 0x222#64 &&
    fits c.mie 0xAAA#64 && fits c.mip 0xAAA#64 && fits c.mcounteren 7#64 && fits c.scounteren 7#64 &&
    slice c.satp 44 16 == 0#16 && [0#4, 8#4, 9#4, 10#4].contains (slice c.satp 60 4) && c.rtcFreqDiv != 0

/-- Whether a configuration is accepted; any other one is rejected as `ConfigInvalid` before a machine exists. -/
def Configuration.legal (c : Configuration) : Bool := c.legalMap && c.legalRegisters

/-- The creation of a machine: `none` is the rejection (70_reset R901). -/
def Configuration.create (c : Configuration) : Option State := if c.legal then some c.construct else none

end Sys2Proof.Machine
end

