-- ==== Sys2Proof/Safety.lean ====
section
/-! DEFINITION. What the claims speak of: a run that goes on, the invariant of the machine's state, and the frames of an
instruction's effect. -/

namespace Sys2Proof.Machine

open Sys2Proof

/-- A safe outcome: the machine goes on. Every fault of the spec is a trap, so every step should be safe (60_exceptions
R804). -/
def Safe (o : StepOutcome) : Prop := ∃ t, o = .next t

/-! ## The invariant -/

/-- The bits of `w` outside `mask` are 0. -/
abbrev Within (w mask : Word) : Prop := w &&& ~~~mask = 0#64

/-- The indices of a TLB's entries strictly rise from `lo` on and stay below 256 (10_state R115). -/
def tlbWfFrom : Nat → Tlb → Bool
  | _, [] => true
  | lo, (i, _) :: rest => decide (lo ≤ i) && decide (i < 256) && tlbWfFrom (i + 1) rest

/-- What holds in every state the hart can reach: the canonical form of memory and the TLBs, and the bits the spec hardwires
or never stores. -/
structure State.Inv (s : State) : Prop where
  /-- Memory is in canonical form. -/
  mem        : s.mem.wf = true
  /-- `pc[0]` is 0 (10_state R44). -/
  pc         : s.pc.getLsbD 0 = false
  /-- The stored `mstatus` holds only the bits of `W` (10_state R70). -/
  mstatus    : Within s.mstatus mstatusMask
  /-- `MPP` is never the reserved 2 (10_state R70). -/
  mpp        : slice s.mstatus 11 2 ≠ 2#2
  /-- Bit 0 of `mepc` and `sepc` is 0 (10_state R60, R79). -/
  mepc       : s.mepc.getLsbD 0 = false
  sepc       : s.sepc.getLsbD 0 = false
  /-- Bit 1 of `mtvec` and `stvec` is 0 (10_state R57, R76). -/
  mtvec      : s.mtvec.getLsbD 1 = false
  stvec      : s.stvec.getLsbD 1 = false
  /-- Only delegable traps are delegated (10_state R73, R74). -/
  medeleg    : Within s.medeleg 0xB3FF#64
  mideleg    : Within s.mideleg 0x222#64
  /-- Only the six interrupts exist (10_state R75, R82). -/
  mie        : Within s.mie 0xAAA#64
  mip        : Within s.mip 0xAAA#64
  /-- Only `CY`, `TM`, `IR` exist (10_state R58, R77). -/
  mcounteren : Within s.mcounteren 7#64
  scounteren : Within s.scounteren 7#64
  /-- `satp.MODE` is Bare, Sv39, Sv48 or Sv57, and `ASID` is 0 (10_state R64). -/
  satpMode   : s.satpMode = 0#4 ∨ s.satpMode = 8#4 ∨ s.satpMode = 9#4 ∨ s.satpMode = 10#4
  satpAsid   : slice s.satp 44 16 = 0#16
  /-- A reservation has size 4 or 8 (10_state R96). -/
  ilrsc      : ∀ r, s.ilrsc = some r → r.size = 4 ∨ r.size = 8
  /-- The TLBs are in canonical form (10_state R115). -/
  tlbRead    : tlbWfFrom 0 s.tlbRead = true
  tlbWrite   : tlbWfFrom 0 s.tlbWrite = true
  tlbCode    : tlbWfFrom 0 s.tlbCode = true

/-! ## Frames -/

/-- Every byte of memory reads as before. -/
def SameBytes (s t : State) : Prop := ∀ a, t.mem.byte a = s.mem.byte a

/-- The integer registers other than `rd` read as before, `x0` still reads 0, and `rd`, unless it is `x0`, reads `v`. -/
def XBecomes (rd : Reg) (v : Word) (s t : State) : Prop :=
  t.getX 0#5 = 0#64 ∧ (rd ≠ 0#5 → t.getX rd = v) ∧ ∀ r, r ≠ rd → t.getX r = s.getX r

/-- Every integer register reads as before. -/
def SameX (s t : State) : Prop := ∀ r, t.getX r = s.getX r

/-- `f[rd]` holds `v` and every other floating-point register is as before. -/
def FBecomes (rd : Reg) (v : Word) (s t : State) : Prop := t.getF rd = v ∧ ∀ r, r ≠ rd → t.getF r = s.getF r

/-- The instruction retired and went on at `next` (60_exceptions R805; the step adds to `mcycle`). -/
def RetiredAt (next : Word) (s t : State) : Prop := t.pc = next ∧ t.minstret = s.minstret + 1#64

/-- Only integer registers, `pc` and `minstret` may differ. -/
def OnlyX (s t : State) : Prop := t = { s with x := t.x, pc := t.pc, minstret := t.minstret }

/-- Only `pc` and `minstret` may differ. -/
def OnlyPc (s t : State) : Prop := t = { s with pc := t.pc, minstret := t.minstret }

/-- Only floating-point registers, `fcsr`, `mstatus`, `pc` and `minstret` may differ. -/
def OnlyF (s t : State) : Prop :=
  t = { s with f := t.f, fcsr := t.fcsr, mstatus := t.mstatus, pc := t.pc, minstret := t.minstret }

/-- Only memory, the reservation, the TLBs, `pc` and `minstret` may differ. -/
def OnlyStore (s t : State) : Prop :=
  t = { s with mem := t.mem, ilrsc := t.ilrsc, tlbRead := t.tlbRead, tlbWrite := t.tlbWrite, tlbCode := t.tlbCode,
               pc := t.pc, minstret := t.minstret }

/-- Only integer registers and what a store changes may differ. -/
def OnlyXStore (s t : State) : Prop :=
  t = { s with x := t.x, mem := t.mem, ilrsc := t.ilrsc, tlbRead := t.tlbRead, tlbWrite := t.tlbWrite,
               tlbCode := t.tlbCode, pc := t.pc, minstret := t.minstret }

/-- Only integer registers, `fcsr`, `mstatus`, `pc` and `minstret` may differ. -/
def OnlyXFlags (s t : State) : Prop :=
  t = { s with x := t.x, fcsr := t.fcsr, mstatus := t.mstatus, pc := t.pc, minstret := t.minstret }

/-- `mstatus` with `FS` made Dirty when `dirty` holds, every other bit as before. -/
def FsAfter (dirty : Bool) (s t : State) : Prop :=
  slice t.mstatus 13 2 = (if dirty then 3#2 else slice s.mstatus 13 2) ∧
    ∀ i, i ≠ 13 → i ≠ 14 → t.mstatus.getLsbD i = s.mstatus.getLsbD i

/-- `fflags` has the flags `fl` added, `frm` is as before. -/
def FlagsAccrue (fl : FFlags) (s t : State) : Prop := t.fflags = s.fflags ||| fl ∧ t.frm = s.frm

/-- The instruction completes: it writes `v` to `x[rd]` (nothing when `rd` is `x0`), goes on at `next`, and changes nothing
else. -/
def WritesXAt (i : Instr) (s : State) (next : Word) (rd : Reg) (v : Word) : Prop :=
  ∃ t, exec i s = .next t ∧ XBecomes rd v s t ∧ RetiredAt next s t ∧ SameBytes s t ∧ OnlyX s t

/-- The same, going on at the following instruction, `len` bytes further. -/
def WritesX (i : Instr) (s : State) (len : Word) (rd : Reg) (v : Word) : Prop := WritesXAt i s (s.pc + len) rd v

/-- The instruction completes: it goes on at `next` and changes nothing else. -/
def GoesTo (i : Instr) (s : State) (next : Word) : Prop :=
  ∃ t, exec i s = .next t ∧ RetiredAt next s t ∧ SameX s t ∧ SameBytes s t ∧ OnlyPc s t

/-- The instruction completes: it writes `v` to `f[rd]`, adds the flags `fl`, makes `FS` Dirty, goes on `len` bytes further,
and changes nothing else. -/
def WritesF (i : Instr) (s : State) (len : Word) (rd : Reg) (v : Word) (fl : FFlags) : Prop :=
  ∃ t, exec i s = .next t ∧ FBecomes rd v s t ∧ FlagsAccrue fl s t ∧ FsAfter true s t ∧ RetiredAt (s.pc + len) s t ∧
    SameX s t ∧ SameBytes s t ∧ OnlyF s t

/-- The instruction completes: it writes `v` to `x[rd]`, adds the flags `fl`, makes `FS` Dirty when there are any, goes on
`len` bytes further, and changes nothing else. -/
def WritesXFlags (i : Instr) (s : State) (len : Word) (rd : Reg) (v : Word) (fl : FFlags) : Prop :=
  ∃ t, exec i s = .next t ∧ XBecomes rd v s t ∧ FlagsAccrue fl s t ∧ FsAfter (fl != 0#5) s t ∧
    RetiredAt (s.pc + len) s t ∧ SameBytes s t ∧ OnlyXFlags s t

/-- The instruction takes the exception `e` with trap value `tval`, and nothing else happens (60_exceptions R804, R840). -/
def Traps (i : Instr) (s : State) (e : Exc) (tval : Word) : Prop := exec i s = .next (s.takeException e tval)

/-! ## Accesses to memory -/

/-- The aligned access of `n` bytes at `va` is translated to `pa`, which lies in the memory entry `e` that allows the access.
It leaves the state `s1`: the A and D bits the walk set and the TLB entry it filled (`s` itself when the access is not
translated). -/
structure Reaches (s : State) (va : Word) (n : Nat) (acc : Access) (pa : Word) (e : PmaEntry) (s1 : State) : Prop where
  aligned    : va.toNat % n = 0
  translated : translate s va acc = .ok pa s1
  found      : findPma s1.cfg.pma pa.toNat n = some e
  memory     : e.kind = .memory
  allowed    : acc.flagOf e = true

/-- The `n` bytes from `a` on, little-endian, are the low bytes of `v` (20_memory R220). -/
def BytesAre (s : State) (a n : Nat) (v : Nat) : Prop := ∀ k, k < n → (s.mem.byte (a + k)).toNat = v / 256 ^ k % 256

/-- Every byte outside the `n` bytes from `a` on reads in `t` as in `s`. -/
def SameOutside (s t : State) (a n : Nat) : Prop := ∀ b, b < a ∨ a + n ≤ b → t.mem.byte b = s.mem.byte b

/-- After a store of the `n` bytes from `a` on, a reservation (of 4 or 8 bytes, see `State.Inv`) whose bytes overlap them is
gone and any other one is kept (44_a_atomics R522). -/
def ReservationAfterStore (s t : State) (a n : Nat) : Prop :=
  (s.ilrsc = none → t.ilrsc = none) ∧
    ∀ r, s.ilrsc = some r → r.size = 4 ∨ r.size = 8 →
      ((∃ b, (a ≤ b ∧ b < a + n) ∧ r.paddr.toNat ≤ b ∧ b < r.paddr.toNat + r.size) → t.ilrsc = none) ∧
        ((¬∃ b, (a ≤ b ∧ b < a + n) ∧ r.paddr.toNat ≤ b ∧ b < r.paddr.toNat + r.size) → t.ilrsc = some r)

/-- The load completes: it writes `v` to `x[rd]`, goes on `len` bytes further, and changes nothing else in the state `s1`
that its translation left. -/
def LoadsX (i : Instr) (s s1 : State) (len : Word) (rd : Reg) (v : Word) : Prop :=
  ∃ t, exec i s = .next t ∧ XBecomes rd v s t ∧ RetiredAt (s.pc + len) s t ∧ SameBytes s1 t ∧ OnlyX s1 t

/-- The load completes: it writes `v` to `f[rd]`, makes `FS` Dirty, goes on `len` bytes further, and changes nothing else in
the state `s1` that its translation left. -/
def LoadsF (i : Instr) (s s1 : State) (len : Word) (rd : Reg) (v : Word) : Prop :=
  ∃ t, exec i s = .next t ∧ FBecomes rd v s t ∧ FlagsAccrue 0#5 s t ∧ FsAfter true s t ∧ RetiredAt (s.pc + len) s t ∧
    SameX s t ∧ SameBytes s1 t ∧ OnlyF s1 t

/-- The store completes: the `n` bytes from `a` on hold the low bytes of `v`, every other byte is as in the state `s1` that
its translation left, the reservation follows 44_a_atomics R522, and nothing else changes but the TLBs (20_memory R264). -/
def Stores (i : Instr) (s s1 : State) (len : Word) (a n : Nat) (v : Nat) : Prop :=
  ∃ t, exec i s = .next t ∧ RetiredAt (s.pc + len) s t ∧ SameX s t ∧ BytesAre t a n v ∧ SameOutside s1 t a n ∧
    ReservationAfterStore s1 t a n ∧ OnlyStore s1 t

/-- The atomic operation completes: it writes `old` to `x[rd]` and the low `n` bytes of `new` to memory at `a`, and changes
nothing else in the state `s1` that its translation left but the reservation (44_a_atomics R522) and the TLBs. -/
def Swaps (i : Instr) (s s1 : State) (a n : Nat) (rd : Reg) (old : Word) (new : Nat) : Prop :=
  ∃ t, exec i s = .next t ∧ XBecomes rd old s t ∧ RetiredAt (s.pc + 4#64) s t ∧ BytesAre t a n new ∧
    SameOutside s1 t a n ∧ ReservationAfterStore s1 t a n ∧ OnlyXStore s1 t

/-! ## The page-table walk (20_memory R254) -/

/-- From the page table at `a`, with `n` levels left, valid pointers (neither readable, writable nor executable) lead to the
table at `b`, with `m` levels left. A table with `i + 1` levels left is indexed by `VPN[i]`. -/
inductive Descends (s : State) (va : Word) : Nat → Nat → Nat → Nat → Prop
  | here (n a : Nat) : Descends s va n a n a
  | down (n a m b : Nat) (hv : (s.loadMem (a + vpn va n * 8) 8).getLsbD 0 = true)
      (hr : (s.loadMem (a + vpn va n * 8) 8).getLsbD 1 = false) (hw : (s.loadMem (a + vpn va n * 8) 8).getLsbD 2 = false)
      (hx : (s.loadMem (a + vpn va n * 8) 8).getLsbD 3 = false)
      (next : Descends s va n (ptePpn (s.loadMem (a + vpn va n * 8) 8) * 4096) m b) : Descends s va (n + 1) a m b

/-! ## Encodings, written out from the formats of 30_encoding R302 and R303 -/

/-- The 32-bit word is the encoding of the instruction, in both directions. -/
def IsWord (w : BitVec 32) (i : Instr) : Prop := decode (.word w) = some i ∧ encode i = .word w

/-- The 16-bit word is the encoding of the instruction, in both directions. -/
def IsHalf (w : BitVec 16) (i : Instr) : Prop := decode (.half w) = some i ∧ encode i = .half w

/-- R format. -/
def rWord (funct7 : BitVec 7) (rs2 rs1 : Reg) (funct3 : BitVec 3) (rd : Reg) (opcode : BitVec 7) : BitVec 32 :=
  funct7 ++ rs2 ++ rs1 ++ funct3 ++ rd ++ opcode

/-- I format: `imm[11:0]`. -/
def iWord (imm : BitVec 12) (rs1 : Reg) (funct3 : BitVec 3) (rd : Reg) (opcode : BitVec 7) : BitVec 32 :=
  imm ++ rs1 ++ funct3 ++ rd ++ opcode

/-- S format: `imm[11:5]` above, `imm[4:0]` in place of `rd`. -/
def sWord (imm : BitVec 12) (rs2 rs1 : Reg) (funct3 : BitVec 3) (opcode : BitVec 7) : BitVec 32 :=
  slice imm 5 7 ++ rs2 ++ rs1 ++ funct3 ++ slice imm 0 5 ++ opcode

/-- B format: `imm` holds the offset's bits 12 to 1, so the offset's bit `k` is bit `k - 1` of `imm`. -/
def bWord (imm : BitVec 12) (rs2 rs1 : Reg) (funct3 : BitVec 3) (opcode : BitVec 7) : BitVec 32 :=
  slice imm 11 1 ++ slice imm 4 6 ++ rs2 ++ rs1 ++ funct3 ++ slice imm 0 4 ++ slice imm 10 1 ++ opcode

/-- U format: `imm` is the upper 20 bits. -/
def uWord (imm : BitVec 20) (rd : Reg) (opcode : BitVec 7) : BitVec 32 := imm ++ rd ++ opcode

/-- J format: `imm` holds the offset's bits 20 to 1. -/
def jWord (imm : BitVec 20) (rd : Reg) (opcode : BitVec 7) : BitVec 32 :=
  slice imm 19 1 ++ slice imm 0 10 ++ slice imm 10 1 ++ slice imm 11 8 ++ rd ++ opcode

/-- Shift by a six-bit amount. -/
def shift6Word (funct6 : BitVec 6) (shamt : BitVec 6) (rs1 : Reg) (funct3 : BitVec 3) (rd : Reg) (opcode : BitVec 7) :
    BitVec 32 :=
  funct6 ++ shamt ++ rs1 ++ funct3 ++ rd ++ opcode

/-- Atomic format. -/
def amoWord (funct5 : BitVec 5) (aq rl : BitVec 1) (rs2 rs1 : Reg) (funct3 : BitVec 3) (rd : Reg) : BitVec 32 :=
  funct5 ++ aq ++ rl ++ rs2 ++ rs1 ++ funct3 ++ rd ++ 0x2F#7

/-- R4 format. -/
def r4Word (rs3 : Reg) (fmt : BitVec 2) (rs2 rs1 : Reg) (rm : RmField) (rd : Reg) (opcode : BitVec 7) : BitVec 32 :=
  rs3 ++ fmt ++ rs2 ++ rs1 ++ rm ++ rd ++ opcode

/-! ## Which instructions use the floating-point unit -/

/-- The instructions of files 45 and 46 and their compressed forms: those that need `mstatus.FS != 0` (45_f_single R554). -/
def needsFp : Instr → Bool
  | .flw .. | .fsw .. | .fmaddS .. | .fmsubS .. | .fnmsubS .. | .fnmaddS .. | .faddS .. | .fsubS .. | .fmulS ..
  | .fdivS .. | .fsqrtS .. | .fsgnjS .. | .fsgnjnS .. | .fsgnjxS .. | .fminS .. | .fmaxS .. | .fcvtWS ..
  | .fcvtWUS .. | .fmvXW .. | .feqS .. | .fltS .. | .fleS .. | .fclassS .. | .fcvtSW .. | .fcvtSWU .. | .fmvWX ..
  | .fcvtLS .. | .fcvtLUS .. | .fcvtSL .. | .fcvtSLU .. | .fld .. | .fsd .. | .fmaddD .. | .fmsubD .. | .fnmsubD ..
  | .fnmaddD .. | .faddD .. | .fsubD .. | .fmulD .. | .fdivD .. | .fsqrtD .. | .fsgnjD .. | .fsgnjnD .. | .fsgnjxD ..
  | .fminD .. | .fmaxD .. | .fcvtSD .. | .fcvtDS .. | .feqD .. | .fltD .. | .fleD .. | .fclassD .. | .fcvtWD ..
  | .fcvtWUD .. | .fcvtDW .. | .fcvtDWU .. | .fcvtLD .. | .fcvtLUD .. | .fmvXD .. | .fcvtDL .. | .fcvtDLU ..
  | .fmvDX .. | .cFld .. | .cFsd .. | .cFldsp .. | .cFsdsp .. => true
  | .lui .. | .auipc .. | .addi .. | .slti .. | .sltiu .. | .xori .. | .ori .. | .andi .. | .slli .. | .srli ..
  | .srai .. | .add .. | .sub .. | .sll .. | .slt .. | .sltu .. | .xor .. | .srl .. | .sra .. | .or .. | .and ..
  | .addiw .. | .slliw .. | .srliw .. | .sraiw .. | .addw .. | .subw .. | .sllw .. | .srlw .. | .sraw .. | .jal ..
  | .jalr .. | .beq .. | .bne .. | .blt .. | .bge .. | .bltu .. | .bgeu .. | .lb .. | .lh .. | .lw .. | .lbu ..
  | .lhu .. | .lwu .. | .ld .. | .sb .. | .sh .. | .sw .. | .sd .. | .fence .. | .mul .. | .mulh .. | .mulhsu ..
  | .mulhu .. | .div .. | .divu .. | .rem .. | .remu .. | .mulw .. | .divw .. | .divuw .. | .remw .. | .remuw ..
  | .lrW .. | .scW .. | .amoswapW .. | .amoaddW .. | .amoxorW .. | .amoandW .. | .amoorW .. | .amominW ..
  | .amomaxW .. | .amominuW .. | .amomaxuW .. | .lrD .. | .scD .. | .amoswapD .. | .amoaddD .. | .amoxorD ..
  | .amoandD .. | .amoorD .. | .amominD .. | .amomaxD .. | .amominuD .. | .amomaxuD .. | .csrrw .. | .csrrs ..
  | .csrrc .. | .csrrwi .. | .csrrsi .. | .csrrci .. | .fenceI .. | .ecall | .ebreak | .mret | .sret | .wfi
  | .sfenceVma .. | .cAddi4spn .. | .cLw .. | .cLd .. | .cSw .. | .cSd .. | .cNop .. | .cAddi .. | .cAddiw ..
  | .cLi .. | .cAddi16sp .. | .cLui .. | .cSrli .. | .cSrai .. | .cAndi .. | .cSub .. | .cXor .. | .cOr .. | .cAnd ..
  | .cSubw .. | .cAddw .. | .cJ .. | .cBeqz .. | .cBnez .. | .cSlli .. | .cLwsp .. | .cLdsp .. | .cJr .. | .cMv ..
  | .cEbreak | .cJalr .. | .cAdd .. | .cSwsp .. | .cSdsp .. => false

/-- The rounding-mode field of an instruction that has one (45_f_single R552). -/
def rmOf : Instr → Option RmField
  | .fmaddS _ _ _ _ rm | .fmsubS _ _ _ _ rm | .fnmsubS _ _ _ _ rm | .fnmaddS _ _ _ _ rm | .faddS _ _ _ rm
  | .fsubS _ _ _ rm | .fmulS _ _ _ rm | .fdivS _ _ _ rm | .fsqrtS _ _ rm | .fcvtWS _ _ rm | .fcvtWUS _ _ rm
  | .fcvtSW _ _ rm | .fcvtSWU _ _ rm | .fcvtLS _ _ rm | .fcvtLUS _ _ rm | .fcvtSL _ _ rm | .fcvtSLU _ _ rm
  | .fmaddD _ _ _ _ rm | .fmsubD _ _ _ _ rm | .fnmsubD _ _ _ _ rm | .fnmaddD _ _ _ _ rm | .faddD _ _ _ rm
  | .fsubD _ _ _ rm | .fmulD _ _ _ rm | .fdivD _ _ _ rm | .fsqrtD _ _ rm | .fcvtSD _ _ rm | .fcvtDS _ _ rm
  | .fcvtWD _ _ rm | .fcvtWUD _ _ rm | .fcvtDW _ _ rm | .fcvtDWU _ _ rm | .fcvtLD _ _ rm | .fcvtLUD _ _ rm
  | .fcvtDL _ _ rm | .fcvtDLU _ _ rm => some rm
  | .lui .. | .auipc .. | .addi .. | .slti .. | .sltiu .. | .xori .. | .ori .. | .andi .. | .slli .. | .srli ..
  | .srai .. | .add .. | .sub .. | .sll .. | .slt .. | .sltu .. | .xor .. | .srl .. | .sra .. | .or .. | .and ..
  | .addiw .. | .slliw .. | .srliw .. | .sraiw .. | .addw .. | .subw .. | .sllw .. | .srlw .. | .sraw .. | .jal ..
  | .jalr .. | .beq .. | .bne .. | .blt .. | .bge .. | .bltu .. | .bgeu .. | .lb .. | .lh .. | .lw .. | .lbu ..
  | .lhu .. | .lwu .. | .ld .. | .sb .. | .sh .. | .sw .. | .sd .. | .fence .. | .mul .. | .mulh .. | .mulhsu ..
  | .mulhu .. | .div .. | .divu .. | .rem .. | .remu .. | .mulw .. | .divw .. | .divuw .. | .remw .. | .remuw ..
  | .lrW .. | .scW .. | .amoswapW .. | .amoaddW .. | .amoxorW .. | .amoandW .. | .amoorW .. | .amominW ..
  | .amomaxW .. | .amominuW .. | .amomaxuW .. | .lrD .. | .scD .. | .amoswapD .. | .amoaddD .. | .amoxorD ..
  | .amoandD .. | .amoorD .. | .amominD .. | .amomaxD .. | .amominuD .. | .amomaxuD .. | .flw .. | .fsw ..
  | .fsgnjS .. | .fsgnjnS .. | .fsgnjxS .. | .fminS .. | .fmaxS .. | .fmvXW .. | .feqS .. | .fltS .. | .fleS ..
  | .fclassS .. | .fmvWX .. | .fld .. | .fsd .. | .fsgnjD .. | .fsgnjnD .. | .fsgnjxD .. | .fminD .. | .fmaxD ..
  | .feqD .. | .fltD .. | .fleD .. | .fclassD .. | .fmvXD .. | .fmvDX .. | .csrrw .. | .csrrs .. | .csrrc ..
  | .csrrwi .. | .csrrsi .. | .csrrci .. | .fenceI .. | .ecall | .ebreak | .mret | .sret | .wfi | .sfenceVma ..
  | .cAddi4spn .. | .cFld .. | .cLw .. | .cLd .. | .cFsd .. | .cSw .. | .cSd .. | .cNop .. | .cAddi .. | .cAddiw ..
  | .cLi .. | .cAddi16sp .. | .cLui .. | .cSrli .. | .cSrai .. | .cAndi .. | .cSub .. | .cXor .. | .cOr .. | .cAnd ..
  | .cSubw .. | .cAddw .. | .cJ .. | .cBeqz .. | .cBnez .. | .cSlli .. | .cFldsp .. | .cLwsp .. | .cLdsp .. | .cJr ..
  | .cMv .. | .cEbreak | .cJalr .. | .cAdd .. | .cFsdsp .. | .cSwsp .. | .cSdsp .. => none

/-! ## The data access of an instruction -/

/-- The one data access an instruction makes (60_exceptions R812, R815): its kind, virtual address and size in bytes, and
whether it is atomic. -/
structure DataAccess where
  acc    : Access
  va     : Word
  size   : Nat
  atomic : Bool
  deriving DecidableEq, Repr

/-- The data access the instruction makes in state `s`, if it is a load, a store or an atomic. -/
def accessOf (i : Instr) (s : State) : Option DataAccess :=
  match i with
  | .lb _ rs1 imm | .lbu _ rs1 imm => some ⟨.load, s.effAddr rs1 imm, 1, false⟩
  | .lh _ rs1 imm | .lhu _ rs1 imm => some ⟨.load, s.effAddr rs1 imm, 2, false⟩
  | .lw _ rs1 imm | .lwu _ rs1 imm | .flw _ rs1 imm => some ⟨.load, s.effAddr rs1 imm, 4, false⟩
  | .ld _ rs1 imm | .fld _ rs1 imm => some ⟨.load, s.effAddr rs1 imm, 8, false⟩
  | .sb rs1 _ imm => some ⟨.store, s.effAddr rs1 imm, 1, false⟩
  | .sh rs1 _ imm => some ⟨.store, s.effAddr rs1 imm, 2, false⟩
  | .sw rs1 _ imm | .fsw rs1 _ imm => some ⟨.store, s.effAddr rs1 imm, 4, false⟩
  | .sd rs1 _ imm | .fsd rs1 _ imm => some ⟨.store, s.effAddr rs1 imm, 8, false⟩
  | .lrW _ rs1 _ _ => some ⟨.load, s.getX rs1, 4, true⟩
  | .scW _ rs1 _ _ _ | .amoswapW _ rs1 _ _ _ | .amoaddW _ rs1 _ _ _ | .amoxorW _ rs1 _ _ _ | .amoandW _ rs1 _ _ _
  | .amoorW _ rs1 _ _ _ | .amominW _ rs1 _ _ _ | .amomaxW _ rs1 _ _ _ | .amominuW _ rs1 _ _ _
  | .amomaxuW _ rs1 _ _ _ => some ⟨.store, s.getX rs1, 4, true⟩
  | .lrD _ rs1 _ _ => some ⟨.load, s.getX rs1, 8, true⟩
  | .scD _ rs1 _ _ _ | .amoswapD _ rs1 _ _ _ | .amoaddD _ rs1 _ _ _ | .amoxorD _ rs1 _ _ _ | .amoandD _ rs1 _ _ _
  | .amoorD _ rs1 _ _ _ | .amominD _ rs1 _ _ _ | .amomaxD _ rs1 _ _ _ | .amominuD _ rs1 _ _ _
  | .amomaxuD _ rs1 _ _ _ => some ⟨.store, s.getX rs1, 8, true⟩
  | .cFld _ rs1 uimm | .cLd _ rs1 uimm => some ⟨.load, s.getX (cReg rs1) + offD uimm, 8, false⟩
  | .cLw _ rs1 uimm => some ⟨.load, s.getX (cReg rs1) + offW uimm, 4, false⟩
  | .cFsd rs1 _ uimm | .cSd rs1 _ uimm => some ⟨.store, s.getX (cReg rs1) + offD uimm, 8, false⟩
  | .cSw rs1 _ uimm => some ⟨.store, s.getX (cReg rs1) + offW uimm, 4, false⟩
  | .cFldsp _ uimm | .cLdsp _ uimm => some ⟨.load, s.getX spReg + offD uimm, 8, false⟩
  | .cLwsp _ uimm => some ⟨.load, s.getX spReg + offW uimm, 4, false⟩
  | .cFsdsp _ uimm | .cSdsp _ uimm => some ⟨.store, s.getX spReg + offD uimm, 8, false⟩
  | .cSwsp _ uimm => some ⟨.store, s.getX spReg + offW uimm, 4, false⟩
  | .lui .. | .auipc .. | .addi .. | .slti .. | .sltiu .. | .xori .. | .ori .. | .andi .. | .slli .. | .srli ..
  | .srai .. | .add .. | .sub .. | .sll .. | .slt .. | .sltu .. | .xor .. | .srl .. | .sra .. | .or .. | .and ..
  | .addiw .. | .slliw .. | .srliw .. | .sraiw .. | .addw .. | .subw .. | .sllw .. | .srlw .. | .sraw .. | .jal ..
  | .jalr .. | .beq .. | .bne .. | .blt .. | .bge .. | .bltu .. | .bgeu .. | .fence .. | .mul .. | .mulh ..
  | .mulhsu .. | .mulhu .. | .div .. | .divu .. | .rem .. | .remu .. | .mulw .. | .divw .. | .divuw .. | .remw ..
  | .remuw .. | .fmaddS .. | .fmsubS .. | .fnmsubS .. | .fnmaddS .. | .faddS .. | .fsubS .. | .fmulS .. | .fdivS ..
  | .fsqrtS .. | .fsgnjS .. | .fsgnjnS .. | .fsgnjxS .. | .fminS .. | .fmaxS .. | .fcvtWS .. | .fcvtWUS ..
  | .fmvXW .. | .feqS .. | .fltS .. | .fleS .. | .fclassS .. | .fcvtSW .. | .fcvtSWU .. | .fmvWX .. | .fcvtLS ..
  | .fcvtLUS .. | .fcvtSL .. | .fcvtSLU .. | .fmaddD .. | .fmsubD .. | .fnmsubD .. | .fnmaddD .. | .faddD ..
  | .fsubD .. | .fmulD .. | .fdivD .. | .fsqrtD .. | .fsgnjD .. | .fsgnjnD .. | .fsgnjxD .. | .fminD .. | .fmaxD ..
  | .fcvtSD .. | .fcvtDS .. | .feqD .. | .fltD .. | .fleD .. | .fclassD .. | .fcvtWD .. | .fcvtWUD .. | .fcvtDW ..
  | .fcvtDWU .. | .fcvtLD .. | .fcvtLUD .. | .fmvXD .. | .fcvtDL .. | .fcvtDLU .. | .fmvDX .. | .csrrw ..
  | .csrrs .. | .csrrc .. | .csrrwi .. | .csrrsi .. | .csrrci .. | .fenceI .. | .ecall | .ebreak | .mret | .sret
  | .wfi | .sfenceVma .. | .cAddi4spn .. | .cNop .. | .cAddi .. | .cAddiw .. | .cLi .. | .cAddi16sp .. | .cLui ..
  | .cSrli .. | .cSrai .. | .cAndi .. | .cSub .. | .cXor .. | .cOr .. | .cAnd .. | .cSubw .. | .cAddw .. | .cJ ..
  | .cBeqz .. | .cBnez .. | .cSlli .. | .cJr .. | .cMv .. | .cEbreak | .cJalr .. | .cAdd .. => none

/-- The six CSR instructions. -/
def isCsr (i : Instr) : Prop :=
  ∃ rd r csr, i = .csrrw rd r csr ∨ i = .csrrs rd r csr ∨ i = .csrrc rd r csr ∨ i = .csrrwi rd r csr ∨
    i = .csrrsi rd r csr ∨ i = .csrrci rd r csr

/-! ## What an instruction leaves alone -/

/-- The registers of the devices, the console and the flags that the HTIF sets are as before. -/
def SameDevices (s t : State) : Prop :=
  t.mtimecmp = s.mtimecmp ∧ t.tohost = s.tohost ∧ t.fromhost = s.fromhost ∧ t.fromhostPending = s.fromhostPending ∧
    t.consoleOut = s.consoleOut ∧ t.halted = s.halted ∧ t.yielded = s.yielded

/-- An exception with nothing done before it but, at most, the translation of the instruction's data access (60_exceptions
R804). -/
def AbandonedBy (i : Instr) (s t : State) : Prop :=
  ∃ (s1 : State) (e : Exc) (tval : Word),
    (s1 = s ∨ ∃ a pa, accessOf i s = some a ∧ translate s a.va a.acc = .ok pa s1) ∧ t = s1.takeException e tval

/-! ## Exact numbers -/

/-- `m * 2^e`. -/
def magnitude (m : Nat) (e : Int) : ℚ := (m : ℚ) * (2 : ℚ) ^ e

/-- The magnitudes that a format represents (45_f_single R557, 46_d_double R600). -/
def Representable (fmt : FloatFmt) (q : ℚ) : Prop := ∃ w m e, unpack fmt w = .finite false m e ∧ q = magnitude m e

/-- The number with this sign. -/
def signedValue (neg : Bool) (m : Nat) (e : Int) : ℚ := (if neg then -1 else 1) * magnitude m e

/-- The number that a floating-point value stands for, with the infinities below and above all others; a NaN stands for none
(45_f_single R557, R579 to R581). -/
def FVal.extended : FVal → Option (WithBot (WithTop ℚ))
  | .nan _ => none
  | .inf true => some ⊥
  | .inf false => some ((⊤ : WithTop ℚ) : WithBot (WithTop ℚ))
  | .finite neg m e => some ((signedValue neg m e : WithTop ℚ) : WithBot (WithTop ℚ))

/-- `k` is the magnitude `x` of a number of sign `neg`, rounded to an integer (45_f_single R552): the nearest, ties to even or
away from zero, or the one toward zero, down or up. -/
def RoundsTo (rm : RoundingMode) (neg : Bool) (x : ℝ) (k : ℤ) : Prop :=
  match rm with
  | .rne => |x - k| ≤ 1 / 2 ∧ (|x - k| = 1 / 2 → k % 2 = 0)
  | .rtz => k = ⌊x⌋
  | .rdn => k = if neg then ⌈x⌉ else ⌊x⌋
  | .rup => k = if neg then ⌊x⌋ else ⌈x⌉
  | .rmm => k = ⌊x + 1 / 2⌋

/-- The exponent of the least significant bit of the largest finite number: 104 or 971 (45_f_single R557, 46_d_double R600). -/
def FloatFmt.maxExp (fmt : FloatFmt) : Int := fmt.minExp + (fmt.maxField - 2 : Nat)

/-- `out` is the result and the flags of rounding the number of sign `neg` and magnitude `x > 0` (45_f_single R553, R555). With
`2^lg` the power of two at or below `x`, `x` is rounded to a multiple of `2^q`, the last place of the format there; `free` is
the rounding with the same precision and an unbounded exponent. A rounded magnitude past the largest finite number overflows;
a result that is inexact, and below the smallest normal number after rounding, underflows. -/
def CorrectlyRounded (fmt : FloatFmt) (rm : RoundingMode) (neg : Bool) (x : ℝ) (out : Word × FFlags) : Prop :=
  ∃ lg q r free : ℤ,
    (2 : ℝ) ^ lg ≤ x ∧ x < (2 : ℝ) ^ (lg + 1) ∧ q = max (lg + 1 - fmt.prec) fmt.minExp ∧
    RoundsTo rm neg (x / (2 : ℝ) ^ q) r ∧ RoundsTo rm neg (x / (2 : ℝ) ^ (lg + 1 - fmt.prec)) free ∧
    let y : ℝ := r * (2 : ℝ) ^ q
    let largest : ℝ := (2 ^ fmt.prec - 1) * (2 : ℝ) ^ fmt.maxExp
    let smallestNormal : ℝ := (2 : ℝ) ^ (fmt.minExp + fmt.manBits)
    (largest < y → out.2 = 0x05#5 ∧
      unpack fmt out.1 =
        if rm = .rne ∨ rm = .rmm ∨ (rm = .rdn ∧ neg = true) ∨ (rm = .rup ∧ neg = false) then .inf neg
        else .finite neg (2 ^ fmt.prec - 1) fmt.maxExp) ∧
    (y ≤ largest → (∃ m e, unpack fmt out.1 = .finite neg m e ∧ ((magnitude m e : ℚ) : ℝ) = y) ∧
      (y = x → out.2 = 0#5) ∧
      (y ≠ x → free * (2 : ℝ) ^ (lg + 1 - fmt.prec) < smallestNormal → out.2 = 0x03#5) ∧
      (y ≠ x → smallestNormal ≤ free * (2 : ℝ) ^ (lg + 1 - fmt.prec) → out.2 = 0x01#5))

/-- `out` is the number `v`, correctly rounded; a zero has the sign `zeroNeg` and no flag. -/
def IsRounded (fmt : FloatFmt) (rm : RoundingMode) (v : ℝ) (zeroNeg : Bool) (out : Word × FFlags) : Prop :=
  (0 < v → CorrectlyRounded fmt rm false v out) ∧ (v < 0 → CorrectlyRounded fmt rm true (-v) out) ∧
    (v = 0 → out = (packZero fmt zeroNeg, 0#5))

end Sys2Proof.Machine
end

