-- ==== Sys2Proof/Certificates/Slice0/Obligations.lean ====
section
/-! DEFINITION. The statements for the provers, from the numbered rules of spec/. OBLIGATIONS.json lists them. -/

open Sys2Proof Sys2Proof.Machine

/-- R121: the values the table gives, field by field. -/
def Obligations.ResetState : Prop :=
  let s := State.reset
  (∀ r, s.getX r = 0#64) ∧ (∀ r, s.getF r = 0#64) ∧ s.pc = 0x1000#64 ∧ s.fcsr = 0#8 ∧
    s.mcycle = 0#64 ∧ s.minstret = 0#64 ∧ s.mstatus = 0#64 ∧ csrRead s .mstatus = 0x0000000A00000000#64 ∧
    csrRead s .misa = 0x800000000014112D#64 ∧ csrRead s .mvendorid = s.cfg.mvendorid ∧
    csrRead s .marchid = s.cfg.marchid ∧ csrRead s .mimpid = s.cfg.mimpid ∧ csrRead s .mhartid = 0#64 ∧
    s.mtvec = 0#64 ∧ s.mscratch = 0#64 ∧ s.mepc = 0#64 ∧ s.mcause = 0#64 ∧ s.mtval = 0#64 ∧
    s.mie = 0#64 ∧ s.mip = 0#64 ∧ s.medeleg = 0#64 ∧ s.mideleg = 0#64 ∧ s.mcounteren = 0#64 ∧
    s.stvec = 0#64 ∧ s.sscratch = 0#64 ∧ s.sepc = 0#64 ∧ s.scause = 0#64 ∧ s.stval = 0#64 ∧ s.satp = 0#64 ∧
    s.scounteren = 0#64 ∧ s.priv = .machine ∧ s.idle = false ∧ s.halted = false ∧ s.yielded = false ∧ s.extReq = false ∧
    s.ilrsc = none ∧ s.mtimecmp = 0#64 ∧ s.tohost = 0#64 ∧ s.fromhost = 0#64 ∧ s.fromhostPending = false ∧
    s.cfg.ihalt = 0x1#64 ∧ s.cfg.iconsole = 0x2#64 ∧ s.cfg.iyield = 0x0#64 ∧
    (∀ acc i, (s.tlb acc).at i = none) ∧ (∀ a, s.mem.byte a = 0#8) ∧ s.brk = false

/-- R120, R900: a machine is one assignment of all state, from a configuration: the registers, the masks, the PMA map sorted
by start with the ranges and flags that the configuration gives (20_memory R211), and the images in a memory that is 0
elsewhere; the TLBs, the reservation and `fromhost_pending` start empty. R901: a configuration that breaks a constraint gives
no machine. `State.reset` is the machine of the defaults. The model's choices are the device tags of the map (entry 18), the
empty console output (entry 14), and the parts of `legal` that entry 19 names. -/
def Obligations.MachineConstruction : Prop :=
  (Configuration.default.construct = State.reset ∧ Configuration.default.create = some State.reset) ∧
  ∀ c : Configuration,
    let s := c.construct
    ((c.legal = true → c.create = some s ∧ (c.pc.getLsbD 0 = false → s.Inv)) ∧ (c.legal = false → c.create = none)) ∧
    (slice c.mstatus 11 2 = 2#2 ∨ (slice c.satp 60 4 ∉ [0#4, 8#4, 9#4, 10#4]) ∨ c.mepc.getLsbD 0 = true ∨
      c.ramLength % 4096 ≠ 0 ∨ 8 < c.flash.length ∨
      (∃ a b, [a, b].Sublist c.ranges ∧ a.start < b.start + b.length ∧ b.start < a.start + a.length) → c.create = none) ∧
    ((∀ acc i, (s.tlb acc).at i = none) ∧ s.ilrsc = none ∧ s.fromhostPending = false ∧ s.consoleOut = [] ∧
      s = { State.reset with
        x := c.x, f := c.f, pc := c.pc, priv := c.priv, idle := c.idle, halted := c.halted, yielded := c.yielded,
        extReq := c.extReq, fcsr := c.fcsr, mstatus := c.mstatus, medeleg := c.medeleg, mideleg := c.mideleg, mie := c.mie,
        mip := c.mip, mtvec := c.mtvec, mcounteren := c.mcounteren, mscratch := c.mscratch, mepc := c.mepc,
        mcause := c.mcause, mtval := c.mtval, stvec := c.stvec, scounteren := c.scounteren, sscratch := c.sscratch,
        sepc := c.sepc, scause := c.scause, stval := c.stval, satp := c.satp, mcycle := c.mcycle, minstret := c.minstret,
        mtimecmp := c.mtimecmp, tohost := c.tohost, fromhost := c.fromhost, consoleIn := c.consoleIn,
        mcycleEnd := c.mcycleEnd, hostInputs := c.hostInputs, mem := s.mem, cfg := s.cfg }) ∧
    ((∀ k, s.cfg.iconsole.getLsbD k = (decide (k = 1) || (decide (k = 0) && c.consoleGetchar))) ∧
      (∀ k, s.cfg.iyield.getLsbD k = ((decide (k = 0) && c.yieldProgress) || (decide (k = 1) && c.yieldRollup))) ∧
      s.cfg = { s.cfg with rtcFreqDiv := c.rtcFreqDiv, mvendorid := c.mvendorid, marchid := c.marchid, mimpid := c.mimpid,
                           ihalt := c.ihalt, interactive := c.interactive }) ∧
    (let range := fun (kind : PmaKind) (did start length : Nat) (g : PmaFlags) =>
        ({ start, length, kind, r := g.r, w := g.w, x := g.x, ir := g.ir, iw := g.iw, did } : PmaEntry)
     c.ranges.take 4 =
       [range .memory 0 c.romStart c.romLength c.romFlags, range .clint 1 c.clintStart c.clintLength c.clintFlags,
         range .htif 2 c.htifStart c.htifLength c.htifFlags, range .memory 3 c.ramStart c.ramLength c.ramFlags] ∧
     ∀ k, (c.ranges.drop 4)[k]? = (c.flash[k]?).map fun d => range .memory (4 + k) d.start d.length d.flags) ∧
    (s.cfg.pma.Perm c.ranges ∧ s.cfg.pma.Pairwise (fun a b => a.start ≤ b.start) ∧
      (c.legal = true → s.cfg.pma.Pairwise fun a b => a.start + a.length ≤ b.start)) ∧
    (c.legal = true →
      (∀ k b, c.romImage[k]? = some b → s.mem.byte (c.romStart + k) = b) ∧
      (∀ k b, c.ramImage[k]? = some b → s.mem.byte (c.ramStart + k) = b) ∧
      (∀ d ∈ c.flash, ∀ k b, d.image[k]? = some b → s.mem.byte (d.start + k) = b)) ∧
    ∀ a, (a < c.romStart ∨ c.romStart + c.romImage.length ≤ a) → (a < c.ramStart ∨ c.ramStart + c.ramImage.length ≤ a) →
      (∀ d ∈ c.flash, a < d.start ∨ d.start + d.image.length ≤ a) → s.mem.byte a = 0#8

/-- The invariant holds after reset. `State.Inv` collects what the rules it cites hardwire or never store. -/
def Obligations.ResetInv : Prop :=
  State.reset.Inv

/-- Every step, and what the host does before it, keeps the invariant: memory and the TLBs stay in canonical form, `pc[0]`,
the hardwired CSR bits, the legal `MPP` and `satp.MODE`, and the sizes of the reservation. -/
def Obligations.StepKeepsInv : Prop :=
  ∀ s t : State, s.Inv → step s = .next t → t.Inv

/-- 60_exceptions R804: every architecturally defined fault is a trap of the hart, so no instruction stops the machine. For a
halted, yielded or externally stopped hart, and past the deadline, the spec performs no step (R801, R807): that such a step
answers the same state is the model's choice (log entry 6). -/
def Obligations.StepIsTotal : Prop :=
  ∀ s : State, Safe (step s)

/-- Decoding the bytes of a well-formed instruction gives it back, with the bytes that follow it left over. -/
def Obligations.DecodeEncode : Prop :=
  ∀ (i : Instr) (rest : List Byte), i.WF → decodeBytes ((encode i).bytes ++ rest) = .ok i rest

/-- Every word that decodes is the encoding of a well-formed instruction: each word has one meaning, and no bit is dropped.
-/
def Obligations.EncodeDecode : Prop :=
  ∀ (w : Encoded) (i : Instr), decode w = some i → i.WF ∧ encode i = w

/-- The worked encodings of the rules: one or two words of every family, as the spec prints them. -/
def Obligations.DecodesWrittenWords : Prop :=
  decode (.word 0x800002B7#32) = some (.lui 5#5 0x80000#20) ∧
    decode (.word 0xFFF30293#32) = some (.addi 5#5 6#5 0xFFF#12) ∧
    decode (.word 0xFF9FF0EF#32) = some (.jal 1#5 0xFFFFC#20) ∧
    decode (.word 0x00628863#32) = some (.beq 5#5 6#5 8#12) ∧
    decode (.word 0x00031283#32) = some (.lh 5#5 6#5 0#12) ∧
    decode (.word 0x027302B3#32) = some (.mul 5#5 6#5 7#5) ∧
    decode (.word 0x187322AF#32) = some (.scW 5#5 6#5 7#5 0#1 0#1) ∧
    decode (.word 0x00432087#32) = some (.flw 1#5 6#5 4#12) ∧
    decode (.word 0x00853487#32) = some (.fld 9#5 10#5 8#12) ∧
    decode (.word 0x340312F3#32) = some (.csrrw 5#5 6#5 0x340#12) ∧
    decode (.word 0x30200073#32) = some .mret ∧
    decode (.word 0x12730073#32) = some (.sfenceVma 6#5 7#5) ∧
    decode (.half 0x0028#16) = some (.cAddi4spn 2#3 2#8) ∧
    decode (.half 0x2504#16) = some (.cFld 1#3 2#3 1#5)

/-- R740: the reserved 16-bit encodings, row by row of the table (the all-zero halfword is in the first). -/
def Obligations.ReservedHalfwordsIllegal : Prop :=
  (∀ r4 : BitVec 3, decode (.half (0#11 ++ r4 ++ 0#2)) = none) ∧
    (∀ v : BitVec 11, decode (.half (4#3 ++ v ++ 0#2)) = none) ∧
    (∀ (i : BitVec 1) (v : BitVec 5), decode (.half (1#3 ++ i ++ 0#5 ++ v ++ 1#2)) = none) ∧
    decode (.half (3#3 ++ 0#1 ++ 2#5 ++ 0#5 ++ 1#2)) = none ∧
    (∀ rd : BitVec 5, rd ≠ 2#5 → decode (.half (3#3 ++ 0#1 ++ rd ++ 0#5 ++ 1#2)) = none) ∧
    (∀ (rd : BitVec 3) (b : BitVec 1) (r4 : BitVec 3), decode (.half (4#3 ++ 1#1 ++ 3#2 ++ rd ++ 1#1 ++ b ++ r4 ++ 1#2)) = none) ∧
    (∀ (i : BitVec 1) (v : BitVec 5), decode (.half (2#3 ++ i ++ 0#5 ++ v ++ 2#2)) = none) ∧
    (∀ (i : BitVec 1) (v : BitVec 5), decode (.half (3#3 ++ i ++ 0#5 ++ v ++ 2#2)) = none) ∧
    decode (.half 0x8002#16) = none ∧
    ∀ (w : BitVec 16) (s : State), decode (.half w) = none →
      execFetched (.half w) s = .next (s.takeException .illegalInstruction (w.setWidth 64))

/-- The step around `exec` (60_exceptions R800, R803): with nothing for the host to do, the loop going on and the hart
awake, the timer is sampled, a pending interrupt is taken, the instruction at `pc` is fetched, and then exactly `exec` of it
runs; `mcycle` grows by one afterwards. A fetch or decode that raises takes its exception instead. -/
def Obligations.StepRunsDecodedInstruction : Prop :=
  ∀ s : State, s.hostInputs = [] → s.runStatus = none → s.idle = false →
    let s1 := s.sampleTimer.interruptCheck
    (∀ w s2 i, fetch s1 = .ok w s2 → decode w = some i → step s = mapNext State.tick (exec i s2)) ∧
      (∀ w s2, fetch s1 = .ok w s2 → decode w = none →
        step s = .next (s2.takeException .illegalInstruction w.trapValue).tick) ∧
      ∀ e tval s2, fetch s1 = .raised e tval s2 → step s = .next (s2.takeException e tval).tick

/-- 20_memory R243, R221: the instruction fetched at an even `pc` is the one whose bytes stand in executable memory where the
parcels' translations lie. An untranslated fetch looks at `pc` itself and changes nothing; a translated one translates the
second parcel by itself, after the first, so the two may lie in different pages. R227: an odd `pc` raises instruction address
misaligned with trap value `pc`. R243: a parcel whose translation raises, or that lies in no executable memory entry, raises
the instruction fault with its own address: `pc`, or `pc + 2` for the second parcel. -/
def Obligations.Fetch : Prop :=
  (∀ (s : State) (i : Instr) (e1 e2 : PmaEntry), i.WF → s.pc.getLsbD 0 = false → s.bare .fetch = true →
      findPma s.cfg.pma s.pc.toNat 2 = some e1 → e1.x = true → e1.kind = .memory →
      (i.ilen = 4 → findPma s.cfg.pma (s.pc + 2#64).toNat 2 = some e2 ∧ e2.x = true ∧ e2.kind = .memory) →
      (∀ k b, (encode i).bytes[k]? = some b → s.mem.byte (if k < 2 then s.pc.toNat + k else (s.pc + 2#64).toNat + (k - 2)) = b) →
      fetch s = .ok (encode i) s) ∧
  (∀ (s s1 s2 : State) (i : Instr) (pa1 pa2 : Word) (e1 e2 : PmaEntry), i.WF → s.pc.getLsbD 0 = false →
      translate s s.pc .fetch = .ok pa1 s1 → findPma s1.cfg.pma pa1.toNat 2 = some e1 → e1.x = true → e1.kind = .memory →
      (∀ k b, k < 2 → (encode i).bytes[k]? = some b → s1.mem.byte (pa1.toNat + k) = b) →
      (i.ilen = 2 → fetch s = .ok (encode i) s1) ∧
      (i.ilen = 4 → translate s1 (s.pc + 2#64) .fetch = .ok pa2 s2 →
        findPma s2.cfg.pma pa2.toNat 2 = some e2 → e2.x = true → e2.kind = .memory →
        (∀ k b, (encode i).bytes[k + 2]? = some b → s2.mem.byte (pa2.toNat + k) = b) → fetch s = .ok (encode i) s2)) ∧
  (∀ s : State, s.pc.getLsbD 0 = true → fetch s = .raised .instructionAddressMisaligned s.pc s) ∧
  let refused := fun (s : State) (va : Word) (e : Exc) (s1 : State) =>
    (∃ tval, translate s va .fetch = .raised e tval s1) ∨
      (e = .instructionAccessFault ∧ ∃ pa : Word, translate s va .fetch = .ok pa s1 ∧
        ∀ en, findPma s1.cfg.pma pa.toNat 2 = some en → en.x = false ∨ en.kind ≠ .memory)
  (∀ s va e s1, refused s va e s1 →
    (e = .instructionPageFault ∨ e = .instructionAccessFault) ∧ fetchParcel s va = .raised e va s1) ∧
  (∀ (s : State) (e : Exc) (s1 : State), s.pc.getLsbD 0 = false → refused s s.pc e s1 → fetch s = .raised e s.pc s1) ∧
  (∀ (s s1 s2 : State) (pa : Word) (en : PmaEntry) (e : Exc), s.pc.getLsbD 0 = false → translate s s.pc .fetch = .ok pa s1 →
    findPma s1.cfg.pma pa.toNat 2 = some en → en.x = true → en.kind = .memory →
    (s1.mem.byte pa.toNat).getLsbD 0 = true → (s1.mem.byte pa.toNat).getLsbD 1 = true →
    refused s1 (s.pc + 2#64) e s2 → fetch s = .raised e (s.pc + 2#64) s2)

/-- R401, R402: encoding, result, and nothing else changes. R403 to R411: encoding, result, and nothing else changes. -/
def Obligations.ImmediateForms : Prop :=
  (∀ (s : State) (rd : Reg) (imm : BitVec 20),
    (IsWord (uWord imm rd 0x37#7) (.lui rd imm) ∧ WritesX (.lui rd imm) s 4#64 rd ((imm ++ 0#12).signExtend 64)) ∧
    (IsWord (uWord imm rd 0x17#7) (.auipc rd imm) ∧ WritesX (.auipc rd imm) s 4#64 rd (BitVec.ofInt 64 (s.pc.toInt + (imm ++ 0#12).toInt)))) ∧
  (∀ (s : State) (rd rs1 : Reg) (imm : BitVec 12) (sh : BitVec 6),
    (IsWord (iWord imm rs1 0#3 rd 0x13#7) (.addi rd rs1 imm) ∧ WritesX (.addi rd rs1 imm) s 4#64 rd (BitVec.ofInt 64 ((s.getX rs1).toInt + imm.toInt))) ∧
    (IsWord (iWord imm rs1 2#3 rd 0x13#7) (.slti rd rs1 imm) ∧ WritesX (.slti rd rs1 imm) s 4#64 rd (if (s.getX rs1).toInt < imm.toInt then 1#64 else 0#64)) ∧
    (IsWord (iWord imm rs1 3#3 rd 0x13#7) (.sltiu rd rs1 imm) ∧ WritesX (.sltiu rd rs1 imm) s 4#64 rd (if (s.getX rs1).toNat < (imm.signExtend 64).toNat then 1#64 else 0#64)) ∧
    (IsWord (iWord imm rs1 4#3 rd 0x13#7) (.xori rd rs1 imm) ∧ WritesX (.xori rd rs1 imm) s 4#64 rd (s.getX rs1 ^^^ imm.signExtend 64)) ∧
    (IsWord (iWord imm rs1 6#3 rd 0x13#7) (.ori rd rs1 imm) ∧ WritesX (.ori rd rs1 imm) s 4#64 rd (s.getX rs1 ||| imm.signExtend 64)) ∧
    (IsWord (iWord imm rs1 7#3 rd 0x13#7) (.andi rd rs1 imm) ∧ WritesX (.andi rd rs1 imm) s 4#64 rd (s.getX rs1 &&& imm.signExtend 64)) ∧
    (IsWord (shift6Word 0x0#6 sh rs1 1#3 rd 0x13#7) (.slli rd rs1 sh) ∧ WritesX (.slli rd rs1 sh) s 4#64 rd (BitVec.ofNat 64 ((s.getX rs1).toNat * 2 ^ sh.toNat))) ∧
    (IsWord (shift6Word 0x0#6 sh rs1 5#3 rd 0x13#7) (.srli rd rs1 sh) ∧ WritesX (.srli rd rs1 sh) s 4#64 rd (BitVec.ofNat 64 ((s.getX rs1).toNat / 2 ^ sh.toNat))) ∧
    (IsWord (shift6Word 0x10#6 sh rs1 5#3 rd 0x13#7) (.srai rd rs1 sh) ∧ WritesX (.srai rd rs1 sh) s 4#64 rd (BitVec.ofInt 64 ((s.getX rs1).toInt / 2 ^ sh.toNat))))

/-- R412 to R421: encoding, result, and nothing else changes. -/
def Obligations.RegisterRegister : Prop :=
  ∀ (s : State) (rd rs1 rs2 : Reg),
    (IsWord (rWord 0x0#7 rs2 rs1 0#3 rd 0x33#7) (.add rd rs1 rs2) ∧ WritesX (.add rd rs1 rs2) s 4#64 rd (BitVec.ofInt 64 ((s.getX rs1).toInt + (s.getX rs2).toInt))) ∧
    (IsWord (rWord 0x20#7 rs2 rs1 0#3 rd 0x33#7) (.sub rd rs1 rs2) ∧ WritesX (.sub rd rs1 rs2) s 4#64 rd (BitVec.ofInt 64 ((s.getX rs1).toInt - (s.getX rs2).toInt))) ∧
    (IsWord (rWord 0x0#7 rs2 rs1 1#3 rd 0x33#7) (.sll rd rs1 rs2) ∧ WritesX (.sll rd rs1 rs2) s 4#64 rd (BitVec.ofNat 64 ((s.getX rs1).toNat * 2 ^ ((s.getX rs2).toNat % 64)))) ∧
    (IsWord (rWord 0x0#7 rs2 rs1 2#3 rd 0x33#7) (.slt rd rs1 rs2) ∧ WritesX (.slt rd rs1 rs2) s 4#64 rd (if (s.getX rs1).toInt < (s.getX rs2).toInt then 1#64 else 0#64)) ∧
    (IsWord (rWord 0x0#7 rs2 rs1 3#3 rd 0x33#7) (.sltu rd rs1 rs2) ∧ WritesX (.sltu rd rs1 rs2) s 4#64 rd (if (s.getX rs1).toNat < (s.getX rs2).toNat then 1#64 else 0#64)) ∧
    (IsWord (rWord 0x0#7 rs2 rs1 4#3 rd 0x33#7) (.xor rd rs1 rs2) ∧ WritesX (.xor rd rs1 rs2) s 4#64 rd (s.getX rs1 ^^^ s.getX rs2)) ∧
    (IsWord (rWord 0x0#7 rs2 rs1 5#3 rd 0x33#7) (.srl rd rs1 rs2) ∧ WritesX (.srl rd rs1 rs2) s 4#64 rd (BitVec.ofNat 64 ((s.getX rs1).toNat / 2 ^ ((s.getX rs2).toNat % 64)))) ∧
    (IsWord (rWord 0x20#7 rs2 rs1 5#3 rd 0x33#7) (.sra rd rs1 rs2) ∧ WritesX (.sra rd rs1 rs2) s 4#64 rd (BitVec.ofInt 64 ((s.getX rs1).toInt / 2 ^ ((s.getX rs2).toNat % 64)))) ∧
    (IsWord (rWord 0x0#7 rs2 rs1 6#3 rd 0x33#7) (.or rd rs1 rs2) ∧ WritesX (.or rd rs1 rs2) s 4#64 rd (s.getX rs1 ||| s.getX rs2)) ∧
    (IsWord (rWord 0x0#7 rs2 rs1 7#3 rd 0x33#7) (.and rd rs1 rs2) ∧ WritesX (.and rd rs1 rs2) s 4#64 rd (s.getX rs1 &&& s.getX rs2))

/-- R422 to R430: encoding, result (32 bits, sign-extended), and nothing else changes; a shift with `inst[25]` set is
illegal. -/
def Obligations.WordForms : Prop :=
  ∀ (s : State) (rd rs1 rs2 : Reg) (imm : BitVec 12) (sh : BitVec 5),
    (IsWord (iWord imm rs1 0#3 rd 0x1B#7) (.addiw rd rs1 imm) ∧ WritesX (.addiw rd rs1 imm) s 4#64 rd ((BitVec.ofInt 32 ((s.getX rs1).toInt + imm.toInt)).signExtend 64)) ∧
    (IsWord (rWord 0#7 sh rs1 1#3 rd 0x1B#7) (.slliw rd rs1 sh) ∧ WritesX (.slliw rd rs1 sh) s 4#64 rd ((BitVec.ofNat 32 ((s.getX rs1).toNat * 2 ^ sh.toNat)).signExtend 64)) ∧
    (IsWord (rWord 0#7 sh rs1 5#3 rd 0x1B#7) (.srliw rd rs1 sh) ∧ WritesX (.srliw rd rs1 sh) s 4#64 rd ((BitVec.ofNat 32 ((s.getX rs1).toNat % 2 ^ 32 / 2 ^ sh.toNat)).signExtend 64)) ∧
    (IsWord (rWord 0x20#7 sh rs1 5#3 rd 0x1B#7) (.sraiw rd rs1 sh) ∧ WritesX (.sraiw rd rs1 sh) s 4#64 rd ((BitVec.ofInt 32 (((s.getX rs1).setWidth 32).toInt / 2 ^ sh.toNat)).signExtend 64)) ∧
    (IsWord (rWord 0x0#7 rs2 rs1 0#3 rd 0x3B#7) (.addw rd rs1 rs2) ∧ WritesX (.addw rd rs1 rs2) s 4#64 rd ((BitVec.ofInt 32 ((s.getX rs1).toInt + (s.getX rs2).toInt)).signExtend 64)) ∧
    (IsWord (rWord 0x20#7 rs2 rs1 0#3 rd 0x3B#7) (.subw rd rs1 rs2) ∧ WritesX (.subw rd rs1 rs2) s 4#64 rd ((BitVec.ofInt 32 ((s.getX rs1).toInt - (s.getX rs2).toInt)).signExtend 64)) ∧
    (IsWord (rWord 0x0#7 rs2 rs1 1#3 rd 0x3B#7) (.sllw rd rs1 rs2) ∧ WritesX (.sllw rd rs1 rs2) s 4#64 rd ((BitVec.ofNat 32 ((s.getX rs1).toNat * 2 ^ ((s.getX rs2).toNat % 32))).signExtend 64)) ∧
    (IsWord (rWord 0x0#7 rs2 rs1 5#3 rd 0x3B#7) (.srlw rd rs1 rs2) ∧ WritesX (.srlw rd rs1 rs2) s 4#64 rd ((BitVec.ofNat 32 ((s.getX rs1).toNat % 2 ^ 32 / 2 ^ ((s.getX rs2).toNat % 32))).signExtend 64)) ∧
    (IsWord (rWord 0x20#7 rs2 rs1 5#3 rd 0x3B#7) (.sraw rd rs1 rs2) ∧ WritesX (.sraw rd rs1 rs2) s 4#64 rd ((BitVec.ofInt 32 (((s.getX rs1).setWidth 32).toInt / 2 ^ ((s.getX rs2).toNat % 32))).signExtend 64)) ∧
    (decode (.word (rWord 1#7 sh rs1 1#3 rd 0x1B#7)) = none ∧ decode (.word (rWord 1#7 sh rs1 5#3 rd 0x1B#7)) = none ∧
      decode (.word (rWord 0x21#7 sh rs1 5#3 rd 0x1B#7)) = none)

/-- R451, R452: the target is computed before the link is written, and bit 0 of a JALR target is cleared. R453 to R458: a
taken branch adds its even offset to its own address, an untaken one goes on; nothing else changes. -/
def Obligations.JumpsAndBranches : Prop :=
  (∀ (s : State) (rd rs1 : Reg) (off : BitVec 20) (imm : BitVec 12),
    (IsWord (jWord off rd 0x6F#7) (.jal rd off) ∧
      WritesXAt (.jal rd off) s (BitVec.ofInt 64 (s.pc.toInt + 2 * off.toInt)) rd (s.pc + 4#64)) ∧
    (IsWord (iWord imm rs1 0#3 rd 0x67#7) (.jalr rd rs1 imm) ∧
      WritesXAt (.jalr rd rs1 imm) s (BitVec.ofNat 64 ((s.getX rs1 + imm.signExtend 64).toNat / 2 * 2)) rd (s.pc + 4#64)) ∧
    ∀ f3 : BitVec 3, f3 ≠ 0#3 → decode (.word (iWord imm rs1 f3 rd 0x67#7)) = none) ∧
  (∀ (s : State) (rs1 rs2 : Reg) (imm : BitVec 12),
    let goes := fun (i : Instr) (taken : Prop) =>
      (taken → GoesTo i s (BitVec.ofInt 64 (s.pc.toInt + 2 * imm.toInt))) ∧ (¬taken → GoesTo i s (s.pc + 4#64))
    (IsWord (bWord imm rs2 rs1 0#3 0x63#7) (.beq rs1 rs2 imm) ∧ goes (.beq rs1 rs2 imm) (s.getX rs1 = s.getX rs2)) ∧
    (IsWord (bWord imm rs2 rs1 1#3 0x63#7) (.bne rs1 rs2 imm) ∧ goes (.bne rs1 rs2 imm) (s.getX rs1 ≠ s.getX rs2)) ∧
    (IsWord (bWord imm rs2 rs1 4#3 0x63#7) (.blt rs1 rs2 imm) ∧ goes (.blt rs1 rs2 imm) ((s.getX rs1).toInt < (s.getX rs2).toInt)) ∧
    (IsWord (bWord imm rs2 rs1 5#3 0x63#7) (.bge rs1 rs2 imm) ∧ goes (.bge rs1 rs2 imm) ((s.getX rs2).toInt ≤ (s.getX rs1).toInt)) ∧
    (IsWord (bWord imm rs2 rs1 6#3 0x63#7) (.bltu rs1 rs2 imm) ∧ goes (.bltu rs1 rs2 imm) ((s.getX rs1).toNat < (s.getX rs2).toNat)) ∧
    (IsWord (bWord imm rs2 rs1 7#3 0x63#7) (.bgeu rs1 rs2 imm) ∧ goes (.bgeu rs1 rs2 imm) ((s.getX rs2).toNat ≤ (s.getX rs1).toNat)))

/-- 42_rv64i_load_store_fence R470 to R477 where the access reaches memory: `v` is the little-endian number of the bytes
read, extended by the form. `Reaches` names the translated address, its entry, and the state that the translation left.
42_rv64i_load_store_fence R470, R478 to R481 where the access reaches memory, with the conflict rule 44_a_atomics R522. The
premise on memory is part of `State.Inv`. -/
def Obligations.LoadsAndStores : Prop :=
  (∀ (s s1 : State) (rd rs1 : Reg) (imm : BitVec 12) (pa : Word) (e : PmaEntry) (v : Nat),
      let va := s.effAddr rs1 imm
      (Reaches s va 1 .load pa e s1 → v < 2 ^ 8 → BytesAre s1 pa.toNat 1 v →
        LoadsX (.lb rd rs1 imm) s s1 4#64 rd ((BitVec.ofNat 8 v).signExtend 64)) ∧
      (Reaches s va 2 .load pa e s1 → v < 2 ^ 16 → BytesAre s1 pa.toNat 2 v →
        LoadsX (.lh rd rs1 imm) s s1 4#64 rd ((BitVec.ofNat 16 v).signExtend 64)) ∧
      (Reaches s va 4 .load pa e s1 → v < 2 ^ 32 → BytesAre s1 pa.toNat 4 v →
        LoadsX (.lw rd rs1 imm) s s1 4#64 rd ((BitVec.ofNat 32 v).signExtend 64)) ∧
      (Reaches s va 1 .load pa e s1 → v < 2 ^ 8 → BytesAre s1 pa.toNat 1 v →
        LoadsX (.lbu rd rs1 imm) s s1 4#64 rd (BitVec.ofNat 64 v)) ∧
      (Reaches s va 2 .load pa e s1 → v < 2 ^ 16 → BytesAre s1 pa.toNat 2 v →
        LoadsX (.lhu rd rs1 imm) s s1 4#64 rd (BitVec.ofNat 64 v)) ∧
      (Reaches s va 4 .load pa e s1 → v < 2 ^ 32 → BytesAre s1 pa.toNat 4 v →
        LoadsX (.lwu rd rs1 imm) s s1 4#64 rd (BitVec.ofNat 64 v)) ∧
      (Reaches s va 8 .load pa e s1 → v < 2 ^ 64 → BytesAre s1 pa.toNat 8 v →
        LoadsX (.ld rd rs1 imm) s s1 4#64 rd (BitVec.ofNat 64 v)) ∧
      va = BitVec.ofInt 64 ((s.getX rs1).toInt + imm.toInt)) ∧
  (∀ (s s1 : State) (rs1 rs2 : Reg) (imm : BitVec 12) (pa : Word) (e : PmaEntry), s.mem.wf = true →
      let va := s.effAddr rs1 imm
      (Reaches s va 1 .store pa e s1 → Stores (.sb rs1 rs2 imm) s s1 4#64 pa.toNat 1 (s.getX rs2).toNat) ∧
      (Reaches s va 2 .store pa e s1 → Stores (.sh rs1 rs2 imm) s s1 4#64 pa.toNat 2 (s.getX rs2).toNat) ∧
      (Reaches s va 4 .store pa e s1 → Stores (.sw rs1 rs2 imm) s s1 4#64 pa.toNat 4 (s.getX rs2).toNat) ∧
      (Reaches s va 8 .store pa e s1 → Stores (.sd rs1 rs2 imm) s s1 4#64 pa.toNat 8 (s.getX rs2).toNat))

/-- R225, R226, 44_a_atomics R524: a misaligned data access of any instruction traps with the virtual address, before
translation. `accessOf` names the access each memory instruction makes. -/
def Obligations.MisalignedAccessTraps : Prop :=
  ∀ (i : Instr) (s : State) (acc : Access) (va : Word) (n : Nat) (atomic : Bool), accessOf i s = some ⟨acc, va, n, atomic⟩ →
    (needsFp i = true → s.fs ≠ 0#2) → va.toNat % n ≠ 0 → Traps i s acc.misaligned va

/-- R240, R241, R257, 44_a_atomics R524: what the translation of a data access raises is the exception the instruction
takes, with the page-table updates made so far kept. R212, R240, R241, 44_a_atomics R524: a translated data access that no
entry allows takes the access fault of its kind. An atomic needs memory that can be read, and written when it is not `LR`.
-/
def Obligations.DataAccessFaults : Prop :=
  (∀ (i : Instr) (s s1 : State) (acc : Access) (va tval : Word) (n : Nat) (atomic : Bool) (e : Exc),
    accessOf i s = some ⟨acc, va, n, atomic⟩ →
    (needsFp i = true → s.fs ≠ 0#2) → va.toNat % n = 0 → translate s va acc = .raised e tval s1 →
      exec i s = .next (s1.takeException e va) ∧ tval = va ∧ (e = acc.pageFault ∨ e = acc.accessFault)) ∧
  (∀ (i : Instr) (s s1 : State) (acc : Access) (va pa : Word) (n : Nat) (atomic : Bool),
    accessOf i s = some ⟨acc, va, n, atomic⟩ →
    (needsFp i = true → s.fs ≠ 0#2) → va.toNat % n = 0 → translate s va acc = .ok pa s1 →
    (∀ e, findPma s1.cfg.pma pa.toNat n = some e →
      acc.flagOf e = false ∨ (atomic = true ∧ (e.kind ≠ .memory ∨ e.r = false))) →
      exec i s = .next (s1.takeException acc.accessFault va))

/-- Over all instructions: one that makes no data access changes no byte of memory, no reservation but by a trap, and no
device; one that only loads changes no device, no pending bit, and of memory only what the translation of its address
changed, nothing when that raises. -/
def Obligations.OnlyStoresChangeMemory : Prop :=
  ∀ (i : Instr) (s t : State), exec i s = .next t →
    (accessOf i s = none → t.mem = s.mem ∧ (t.ilrsc = s.ilrsc ∨ t.ilrsc = none) ∧ SameDevices s t) ∧
    ∀ va n atomic, accessOf i s = some ⟨.load, va, n, atomic⟩ →
      SameDevices s t ∧ t.mip = s.mip ∧
      (∀ pa s1, translate s va .load = .ok pa s1 → t.mem = s1.mem ∨ t.mem = s.mem) ∧
      (∀ e tval s1, translate s va .load = .raised e tval s1 → t.mem = s.mem)

/-- R858, R864 for every 8-byte load (46_d_double R610 names `FLD`): at the listed offsets of the CLINT and the HTIF it reads
their registers and changes nothing else; any other offset, and any other width, is refused with a load access fault. -/
def Obligations.DeviceLoads : Prop :=
  ∀ (s s1 : State) (va pa : Word) (e : PmaEntry),
    let off := pa.toNat - e.start
    let reads := fun (i : Instr) (completes : Word → Prop) =>
      (va.toNat % 8 ≠ 0 → Traps i s .loadAddressMisaligned va) ∧
      (va.toNat % 8 = 0 → translate s va .load = .ok pa s1 → findPma s1.cfg.pma pa.toNat 8 = some e → e.r = true →
        (e.kind = .clint →
          (off = 0 → completes (if s1.mip.getLsbD 3 then 1#64 else 0#64)) ∧
          (off = 0x4000 → completes s1.mtimecmp) ∧
          (off = 0xBFF8 → completes (BitVec.ofNat 64 (s1.mcycle.toNat / s1.cfg.rtcFreqDiv))) ∧
          (off ≠ 0 → off ≠ 0x4000 → off ≠ 0xBFF8 → exec i s = .next (s1.takeException .loadAccessFault va))) ∧
        (e.kind = .htif →
          (off = 0 → completes s1.tohost) ∧
          (off = 8 → completes s1.fromhost) ∧
          (off ≠ 0 → off ≠ 8 → exec i s = .next (s1.takeException .loadAccessFault va))))
    (∀ (rd rs1 : Reg) (imm : BitVec 12), va = s.effAddr rs1 imm →
      reads (.ld rd rs1 imm) (LoadsX (.ld rd rs1 imm) s s1 4#64 rd) ∧
      (s.fs ≠ 0#2 → reads (.fld rd rs1 imm) (LoadsF (.fld rd rs1 imm) s s1 4#64 rd))) ∧
    (∀ (q p : CReg) (u : BitVec 5), va = s.getX (cReg q) + offD u →
      reads (.cLd p q u) (LoadsX (.cLd p q u) s s1 2#64 (1#2 ++ p)) ∧
      (s.fs ≠ 0#2 → reads (.cFld p q u) (LoadsF (.cFld p q u) s s1 2#64 (1#2 ++ p)))) ∧
    (∀ (rd : Reg) (w : BitVec 6), va = s.getX spReg + offD w →
      reads (.cLdsp rd w) (LoadsX (.cLdsp rd w) s s1 2#64 rd) ∧
      (s.fs ≠ 0#2 → reads (.cFldsp rd w) (LoadsF (.cFldsp rd w) s s1 2#64 rd))) ∧
    ∀ (i : Instr) (n : Nat) (atomic : Bool), accessOf i s = some ⟨.load, va, n, atomic⟩ → (needsFp i = true → s.fs ≠ 0#2) → n ≠ 8 →
      va.toNat % n = 0 → translate s va .load = .ok pa s1 → findPma s1.cfg.pma pa.toNat n = some e → e.kind ≠ .memory →
        exec i s = .next (s1.takeException .loadAccessFault va)

/-- R859 to R862, R865, R870 for every 8-byte store: the listed offsets of the CLINT and `fromhost`; any other offset, and
any other width, is refused with a store/AMO access fault. R865 to R870: the command a store to `tohost` gives, from its
device, command and payload fields and the enable masks. -/
def Obligations.DeviceWrites : Prop :=
  ∀ (s s1 : State) (va pa : Word) (e : PmaEntry),
    let off := pa.toNat - e.start
    let writes := fun (i : Instr) (len v : Word) =>
      let after := fun t : State => exec i s = .next { t with pc := s.pc + len, minstret := s.minstret + 1#64 }
      let dev := slice v 56 8
      let cmd := slice v 48 8
      va.toNat % 8 = 0 → translate s va .store = .ok pa s1 → findPma s1.cfg.pma pa.toNat 8 = some e → e.w = true →
      (e.kind = .clint →
        (off = 0 → ∃ m : Word, (∀ k, m.getLsbD k = if k = 3 then v.getLsbD 0 else s1.mip.getLsbD k) ∧ after { s1 with mip := m }) ∧
        (off = 0x4000 → ∃ m : Word,
          (∀ k, m.getLsbD k = if k = 7 then decide (v.toNat ≤ (BitVec.ofNat 64 (s1.mcycle.toNat / s1.cfg.rtcFreqDiv)).toNat)
                              else s1.mip.getLsbD k) ∧ after { s1 with mtimecmp := v, mip := m }) ∧
        (off = 0xBFF8 → after s1) ∧
        (off ≠ 0 → off ≠ 0x4000 → off ≠ 0xBFF8 → exec i s = .next (s1.takeException .storeAmoAccessFault va))) ∧
      (e.kind = .htif →
        (off = 8 → after { s1 with fromhost := v, fromhostPending := false }) ∧
        (off ≠ 0 → off ≠ 8 → exec i s = .next (s1.takeException .storeAmoAccessFault va)) ∧
        (off = 0 →
          (dev = 0#8 ∧ cmd = 0#8 ∧ s1.cfg.ihalt.getLsbD 0 = true ∧ v.getLsbD 0 = true → after { s1 with tohost := v, halted := true }) ∧
          (dev = 1#8 ∧ cmd = 1#8 ∧ s1.cfg.iconsole.getLsbD 1 = true →
            after { s1 with tohost := 0#64, fromhost := 0x0101000000000000#64, consoleOut := s1.consoleOut ++ [slice v 0 8] }) ∧
          (dev = 1#8 ∧ cmd = 0#8 ∧ s1.cfg.iconsole.getLsbD 0 = true → after { s1 with tohost := 0#64 }) ∧
          (dev = 2#8 ∧ cmd = 0#8 ∧ s1.cfg.iyield.getLsbD 0 = true →
            after { s1 with tohost := v, yielded := true, fromhost := 0x0200000000000000#64 }) ∧
          (dev = 2#8 ∧ cmd = 1#8 ∧ s1.cfg.iyield.getLsbD 1 = true →
            after { s1 with tohost := v, yielded := true, fromhost := 0x0201000000000000#64 }) ∧
          (¬(dev = 0#8 ∧ cmd = 0#8 ∧ s1.cfg.ihalt.getLsbD 0 = true ∧ v.getLsbD 0 = true) →
            ¬(dev = 1#8 ∧ cmd = 1#8 ∧ s1.cfg.iconsole.getLsbD 1 = true) →
            ¬(dev = 1#8 ∧ cmd = 0#8 ∧ s1.cfg.iconsole.getLsbD 0 = true) →
            ¬(dev = 2#8 ∧ cmd = 0#8 ∧ s1.cfg.iyield.getLsbD 0 = true) →
            ¬(dev = 2#8 ∧ cmd = 1#8 ∧ s1.cfg.iyield.getLsbD 1 = true) → after { s1 with tohost := 0#64 })))
    (∀ (rs1 rs2 : Reg) (imm : BitVec 12), va = s.effAddr rs1 imm →
      writes (.sd rs1 rs2 imm) 4#64 (s.getX rs2) ∧ (s.fs ≠ 0#2 → writes (.fsd rs1 rs2 imm) 4#64 (s.getF rs2))) ∧
    (∀ (q p : CReg) (u : BitVec 5), va = s.getX (cReg q) + offD u →
      writes (.cSd q p u) 2#64 (s.getX (1#2 ++ p)) ∧ (s.fs ≠ 0#2 → writes (.cFsd q p u) 2#64 (s.getF (1#2 ++ p)))) ∧
    (∀ (rs2 : Reg) (w : BitVec 6), va = s.getX spReg + offD w →
      writes (.cSdsp rs2 w) 2#64 (s.getX rs2) ∧ (s.fs ≠ 0#2 → writes (.cFsdsp rs2 w) 2#64 (s.getF rs2))) ∧
    ∀ (i : Instr) (n : Nat) (atomic : Bool), accessOf i s = some ⟨.store, va, n, atomic⟩ → (needsFp i = true → s.fs ≠ 0#2) → n ≠ 8 →
      va.toNat % n = 0 → translate s va .store = .ok pa s1 → findPma s1.cfg.pma pa.toNat n = some e → e.kind ≠ .memory →
        exec i s = .next (s1.takeException .storeAmoAccessFault va)

/-- R489, R662: every field value of FENCE and FENCE.I executes as no operation. R674, R675: what `WFI` and `SFENCE.VMA` do
where they are allowed, and that they are illegal elsewhere. -/
def Obligations.FencesAndWaits : Prop :=
  (∀ (s : State) (fm pred succ : BitVec 4) (imm : BitVec 12) (rs1 rd : Reg),
    (IsWord (iWord (fm ++ pred ++ succ) rs1 0#3 rd 0x0F#7) (.fence fm pred succ rs1 rd) ∧
      GoesTo (.fence fm pred succ rs1 rd) s (s.pc + 4#64)) ∧
    (IsWord (iWord imm rs1 1#3 rd 0x0F#7) (.fenceI imm rs1 rd) ∧ GoesTo (.fenceI imm rs1 rd) s (s.pc + 4#64))) ∧
  (∀ (s : State) (rs1 rs2 : Reg),
    (IsWord 0x10500073#32 .wfi ∧ IsWord (rWord 0x09#7 rs2 rs1 0#3 0#5 0x73#7) (.sfenceVma rs1 rs2)) ∧
    (s.priv = .machine ∨ s.tw = false →
      exec .wfi s = .next { s with pc := s.pc + 4#64, minstret := s.minstret + 1#64,
                                   idle := if s.mip &&& s.mie = 0#64 then true else s.idle }) ∧
    (s.priv ≠ .machine → s.tw = true → Traps .wfi s .illegalInstruction 0x10500073#64) ∧
    (s.priv = .machine ∨ (s.priv = .supervisor ∧ s.tvm = false) →
      exec (.sfenceVma rs1 rs2) s = .next { s with pc := s.pc + 4#64, minstret := s.minstret + 1#64,
                                                   tlbRead := [], tlbWrite := [], tlbCode := [] }) ∧
    (s.priv = .user ∨ (s.priv = .supervisor ∧ s.tvm = true) →
      Traps (.sfenceVma rs1 rs2) s .illegalInstruction ((rWord 0x09#7 rs2 rs1 0#3 0#5 0x73#7).setWidth 64)) ∧
    ∀ rd : Reg, rd ≠ 0#5 → decode (.word (rWord 0x09#7 rs2 rs1 0#3 rd 0x73#7)) = none)

/-- R501 to R508: encoding, result, and nothing else changes. The last clause is the overflow of R505 and R507. -/
def Obligations.MultiplyDivide : Prop :=
  ∀ (s : State) (rd rs1 rs2 : Reg),
    (IsWord (rWord 1#7 rs2 rs1 0#3 rd 0x33#7) (.mul rd rs1 rs2) ∧ WritesX (.mul rd rs1 rs2) s 4#64 rd (BitVec.ofInt 64 ((s.getX rs1).toInt * (s.getX rs2).toInt))) ∧
    (IsWord (rWord 1#7 rs2 rs1 1#3 rd 0x33#7) (.mulh rd rs1 rs2) ∧ WritesX (.mulh rd rs1 rs2) s 4#64 rd (BitVec.ofInt 64 ((s.getX rs1).toInt * (s.getX rs2).toInt / 2 ^ 64))) ∧
    (IsWord (rWord 1#7 rs2 rs1 2#3 rd 0x33#7) (.mulhsu rd rs1 rs2) ∧ WritesX (.mulhsu rd rs1 rs2) s 4#64 rd (BitVec.ofInt 64 ((s.getX rs1).toInt * (s.getX rs2).toNat / 2 ^ 64))) ∧
    (IsWord (rWord 1#7 rs2 rs1 3#3 rd 0x33#7) (.mulhu rd rs1 rs2) ∧ WritesX (.mulhu rd rs1 rs2) s 4#64 rd (BitVec.ofNat 64 ((s.getX rs1).toNat * (s.getX rs2).toNat / 2 ^ 64))) ∧
    (IsWord (rWord 1#7 rs2 rs1 4#3 rd 0x33#7) (.div rd rs1 rs2) ∧ WritesX (.div rd rs1 rs2) s 4#64 rd (if s.getX rs2 = 0#64 then BitVec.ofInt 64 (-1) else BitVec.ofInt 64 ((s.getX rs1).toInt.tdiv (s.getX rs2).toInt))) ∧
    (IsWord (rWord 1#7 rs2 rs1 5#3 rd 0x33#7) (.divu rd rs1 rs2) ∧ WritesX (.divu rd rs1 rs2) s 4#64 rd (if s.getX rs2 = 0#64 then BitVec.ofNat 64 (2 ^ 64 - 1) else BitVec.ofNat 64 ((s.getX rs1).toNat / (s.getX rs2).toNat))) ∧
    (IsWord (rWord 1#7 rs2 rs1 6#3 rd 0x33#7) (.rem rd rs1 rs2) ∧ WritesX (.rem rd rs1 rs2) s 4#64 rd (if s.getX rs2 = 0#64 then s.getX rs1 else BitVec.ofInt 64 ((s.getX rs1).toInt.tmod (s.getX rs2).toInt))) ∧
    (IsWord (rWord 1#7 rs2 rs1 7#3 rd 0x33#7) (.remu rd rs1 rs2) ∧ WritesX (.remu rd rs1 rs2) s 4#64 rd (if s.getX rs2 = 0#64 then s.getX rs1 else BitVec.ofNat 64 ((s.getX rs1).toNat % (s.getX rs2).toNat))) ∧
    (s.getX rs1 = 0x8000000000000000#64 → s.getX rs2 = 0xFFFFFFFFFFFFFFFF#64 →
      WritesX (.div rd rs1 rs2) s 4#64 rd (s.getX rs1) ∧ WritesX (.rem rd rs1 rs2) s 4#64 rd 0#64)

/-- R509 to R513: 32-bit operands, every result sign-extended, those of a division by zero included. -/
def Obligations.MultiplyDivideWords : Prop :=
  ∀ (s : State) (rd rs1 rs2 : Reg),
    (IsWord (rWord 1#7 rs2 rs1 0#3 rd 0x3B#7) (.mulw rd rs1 rs2) ∧ WritesX (.mulw rd rs1 rs2) s 4#64 rd ((BitVec.ofInt 32 (((s.getX rs1).setWidth 32).toInt * ((s.getX rs2).setWidth 32).toInt)).signExtend 64)) ∧
    (IsWord (rWord 1#7 rs2 rs1 4#3 rd 0x3B#7) (.divw rd rs1 rs2) ∧ WritesX (.divw rd rs1 rs2) s 4#64 rd (if ((s.getX rs2).setWidth 32) = 0#32 then BitVec.ofInt 64 (-1) else (BitVec.ofInt 32 (((s.getX rs1).setWidth 32).toInt.tdiv ((s.getX rs2).setWidth 32).toInt)).signExtend 64)) ∧
    (IsWord (rWord 1#7 rs2 rs1 5#3 rd 0x3B#7) (.divuw rd rs1 rs2) ∧ WritesX (.divuw rd rs1 rs2) s 4#64 rd (if ((s.getX rs2).setWidth 32) = 0#32 then BitVec.ofInt 64 (-1) else (BitVec.ofNat 32 (((s.getX rs1).setWidth 32).toNat / ((s.getX rs2).setWidth 32).toNat)).signExtend 64)) ∧
    (IsWord (rWord 1#7 rs2 rs1 6#3 rd 0x3B#7) (.remw rd rs1 rs2) ∧ WritesX (.remw rd rs1 rs2) s 4#64 rd (if ((s.getX rs2).setWidth 32) = 0#32 then ((s.getX rs1).setWidth 32).signExtend 64 else (BitVec.ofInt 32 (((s.getX rs1).setWidth 32).toInt.tmod ((s.getX rs2).setWidth 32).toInt)).signExtend 64)) ∧
    (IsWord (rWord 1#7 rs2 rs1 7#3 rd 0x3B#7) (.remuw rd rs1 rs2) ∧ WritesX (.remuw rd rs1 rs2) s 4#64 rd (if ((s.getX rs2).setWidth 32) = 0#32 then ((s.getX rs1).setWidth 32).signExtend 64 else (BitVec.ofNat 32 (((s.getX rs1).setWidth 32).toNat % ((s.getX rs2).setWidth 32).toNat)).signExtend 64)) ∧
    (((s.getX rs1).setWidth 32) = 0x80000000#32 → ((s.getX rs2).setWidth 32) = 0xFFFFFFFF#32 →
      WritesX (.divw rd rs1 rs2) s 4#64 rd 0xFFFFFFFF80000000#64 ∧ WritesX (.remw rd rs1 rs2) s 4#64 rd 0#64)

/-- 44_a_atomics R521, R525, R526, R537: encoding, loaded value and reservation, also when `rd` is `x0`; `aq` and `rl` do
not matter. 44_a_atomics R520, R523, R527, R538: the store happens exactly when the reservation is the same address and
size; either way the reservation is gone. -/
def Obligations.LoadReservedStoreConditional : Prop :=
  (∀ (s s1 : State) (rd rs1 : Reg) (aq rl : BitVec 1) (pa : Word) (e : PmaEntry) (v : Nat),
    (IsWord (amoWord 2#5 aq rl 0#5 rs1 2#3 rd) (.lrW rd rs1 aq rl) ∧
      (Reaches s (s.getX rs1) 4 .load pa e s1 → v < 2 ^ 32 → BytesAre s1 pa.toNat 4 v →
        ∃ t, exec (.lrW rd rs1 aq rl) s = .next t ∧ XBecomes rd ((BitVec.ofNat 32 v).signExtend 64) s t ∧ RetiredAt (s.pc + 4#64) s t ∧
          t.ilrsc = some ⟨pa, 4⟩ ∧ SameBytes s1 t ∧ OnlyX { s1 with ilrsc := t.ilrsc } t)) ∧
    (IsWord (amoWord 2#5 aq rl 0#5 rs1 3#3 rd) (.lrD rd rs1 aq rl) ∧
      (Reaches s (s.getX rs1) 8 .load pa e s1 → v < 2 ^ 64 → BytesAre s1 pa.toNat 8 v →
        ∃ t, exec (.lrD rd rs1 aq rl) s = .next t ∧ XBecomes rd (BitVec.ofNat 64 v) s t ∧ RetiredAt (s.pc + 4#64) s t ∧
          t.ilrsc = some ⟨pa, 8⟩ ∧ SameBytes s1 t ∧ OnlyX { s1 with ilrsc := t.ilrsc } t)) ∧
    ∀ (rs2 : Reg) (f3 : BitVec 3), rs2 ≠ 0#5 → decode (.word (amoWord 2#5 aq rl rs2 rs1 f3 rd)) = none) ∧
  (∀ (s s1 : State) (rd rs1 rs2 : Reg) (aq rl : BitVec 1) (pa : Word) (e : PmaEntry), s.mem.wf = true →
    (IsWord (amoWord 3#5 aq rl rs2 rs1 2#3 rd) (.scW rd rs1 rs2 aq rl) ∧
      (Reaches s (s.getX rs1) 4 .store pa e s1 → e.r = true →
        (s1.ilrsc = some ⟨pa, 4⟩ →
          ∃ t, exec (.scW rd rs1 rs2 aq rl) s = .next t ∧ XBecomes rd 0#64 s t ∧ RetiredAt (s.pc + 4#64) s t ∧
            BytesAre t pa.toNat 4 (s.getX rs2).toNat ∧ SameOutside s1 t pa.toNat 4 ∧ t.ilrsc = none ∧ OnlyXStore s1 t) ∧
        (s1.ilrsc ≠ some ⟨pa, 4⟩ →
          ∃ t, exec (.scW rd rs1 rs2 aq rl) s = .next t ∧ XBecomes rd 1#64 s t ∧ RetiredAt (s.pc + 4#64) s t ∧
            SameBytes s1 t ∧ t.ilrsc = none ∧ OnlyX { s1 with ilrsc := none } t))) ∧
    (IsWord (amoWord 3#5 aq rl rs2 rs1 3#3 rd) (.scD rd rs1 rs2 aq rl) ∧
      (Reaches s (s.getX rs1) 8 .store pa e s1 → e.r = true →
        (s1.ilrsc = some ⟨pa, 8⟩ →
          ∃ t, exec (.scD rd rs1 rs2 aq rl) s = .next t ∧ XBecomes rd 0#64 s t ∧ RetiredAt (s.pc + 4#64) s t ∧
            BytesAre t pa.toNat 8 (s.getX rs2).toNat ∧ SameOutside s1 t pa.toNat 8 ∧ t.ilrsc = none ∧ OnlyXStore s1 t) ∧
        (s1.ilrsc ≠ some ⟨pa, 8⟩ →
          ∃ t, exec (.scD rd rs1 rs2 aq rl) s = .next t ∧ XBecomes rd 1#64 s t ∧ RetiredAt (s.pc + 4#64) s t ∧
            SameBytes s1 t ∧ t.ilrsc = none ∧ OnlyX { s1 with ilrsc := none } t))))

/-- 44_a_atomics R528 to R536 (words) and R539 to R547 (doublewords): `a` is the number in memory, `b` the low bits of
`x[rs2]`; `x[rd]` gets `a`, memory the operation's result. -/
def Obligations.AtomicOps : Prop :=
  (∀ (s s1 : State) (rd rs1 rs2 : Reg) (aq rl : BitVec 1) (pa : Word) (e : PmaEntry) (a : BitVec 32), s.mem.wf = true →
      let b : BitVec 32 := (s.getX rs2).setWidth 32
      let does := fun (i : Instr) (new : BitVec 32) =>
        Reaches s (s.getX rs1) 4 .store pa e s1 → e.r = true → BytesAre s1 pa.toNat 4 a.toNat →
          Swaps i s s1 pa.toNat 4 rd (a.signExtend 64) new.toNat
      (IsWord (amoWord 0x1#5 aq rl rs2 rs1 2#3 rd) (.amoswapW rd rs1 rs2 aq rl) ∧ does (.amoswapW rd rs1 rs2 aq rl) (b)) ∧
      (IsWord (amoWord 0x0#5 aq rl rs2 rs1 2#3 rd) (.amoaddW rd rs1 rs2 aq rl) ∧ does (.amoaddW rd rs1 rs2 aq rl) (a + b)) ∧
      (IsWord (amoWord 0x4#5 aq rl rs2 rs1 2#3 rd) (.amoxorW rd rs1 rs2 aq rl) ∧ does (.amoxorW rd rs1 rs2 aq rl) (a ^^^ b)) ∧
      (IsWord (amoWord 0xc#5 aq rl rs2 rs1 2#3 rd) (.amoandW rd rs1 rs2 aq rl) ∧ does (.amoandW rd rs1 rs2 aq rl) (a &&& b)) ∧
      (IsWord (amoWord 0x8#5 aq rl rs2 rs1 2#3 rd) (.amoorW rd rs1 rs2 aq rl) ∧ does (.amoorW rd rs1 rs2 aq rl) (a ||| b)) ∧
      (IsWord (amoWord 0x10#5 aq rl rs2 rs1 2#3 rd) (.amominW rd rs1 rs2 aq rl) ∧ does (.amominW rd rs1 rs2 aq rl) (if a.toInt ≤ b.toInt then a else b)) ∧
      (IsWord (amoWord 0x14#5 aq rl rs2 rs1 2#3 rd) (.amomaxW rd rs1 rs2 aq rl) ∧ does (.amomaxW rd rs1 rs2 aq rl) (if b.toInt ≤ a.toInt then a else b)) ∧
      (IsWord (amoWord 0x18#5 aq rl rs2 rs1 2#3 rd) (.amominuW rd rs1 rs2 aq rl) ∧ does (.amominuW rd rs1 rs2 aq rl) (if a.toNat ≤ b.toNat then a else b)) ∧
      (IsWord (amoWord 0x1c#5 aq rl rs2 rs1 2#3 rd) (.amomaxuW rd rs1 rs2 aq rl) ∧ does (.amomaxuW rd rs1 rs2 aq rl) (if b.toNat ≤ a.toNat then a else b))) ∧
  (∀ (s s1 : State) (rd rs1 rs2 : Reg) (aq rl : BitVec 1) (pa : Word) (e : PmaEntry) (a : BitVec 64), s.mem.wf = true →
      let b : BitVec 64 := (s.getX rs2).setWidth 64
      let does := fun (i : Instr) (new : BitVec 64) =>
        Reaches s (s.getX rs1) 8 .store pa e s1 → e.r = true → BytesAre s1 pa.toNat 8 a.toNat →
          Swaps i s s1 pa.toNat 8 rd (a) new.toNat
      (IsWord (amoWord 0x1#5 aq rl rs2 rs1 3#3 rd) (.amoswapD rd rs1 rs2 aq rl) ∧ does (.amoswapD rd rs1 rs2 aq rl) (b)) ∧
      (IsWord (amoWord 0x0#5 aq rl rs2 rs1 3#3 rd) (.amoaddD rd rs1 rs2 aq rl) ∧ does (.amoaddD rd rs1 rs2 aq rl) (a + b)) ∧
      (IsWord (amoWord 0x4#5 aq rl rs2 rs1 3#3 rd) (.amoxorD rd rs1 rs2 aq rl) ∧ does (.amoxorD rd rs1 rs2 aq rl) (a ^^^ b)) ∧
      (IsWord (amoWord 0xc#5 aq rl rs2 rs1 3#3 rd) (.amoandD rd rs1 rs2 aq rl) ∧ does (.amoandD rd rs1 rs2 aq rl) (a &&& b)) ∧
      (IsWord (amoWord 0x8#5 aq rl rs2 rs1 3#3 rd) (.amoorD rd rs1 rs2 aq rl) ∧ does (.amoorD rd rs1 rs2 aq rl) (a ||| b)) ∧
      (IsWord (amoWord 0x10#5 aq rl rs2 rs1 3#3 rd) (.amominD rd rs1 rs2 aq rl) ∧ does (.amominD rd rs1 rs2 aq rl) (if a.toInt ≤ b.toInt then a else b)) ∧
      (IsWord (amoWord 0x14#5 aq rl rs2 rs1 3#3 rd) (.amomaxD rd rs1 rs2 aq rl) ∧ does (.amomaxD rd rs1 rs2 aq rl) (if b.toInt ≤ a.toInt then a else b)) ∧
      (IsWord (amoWord 0x18#5 aq rl rs2 rs1 3#3 rd) (.amominuD rd rs1 rs2 aq rl) ∧ does (.amominuD rd rs1 rs2 aq rl) (if a.toNat ≤ b.toNat then a else b)) ∧
      (IsWord (amoWord 0x1c#5 aq rl rs2 rs1 3#3 rd) (.amomaxuD rd rs1 rs2 aq rl) ∧ does (.amomaxuD rd rs1 rs2 aq rl) (if b.toNat ≤ a.toNat then a else b)))

/-- 45_f_single R560, R561, 46_d_double R610, R611: with the unit on, the loads box or move the bytes into `f[rd]` and make
`FS` Dirty; the stores write raw bits and leave `FS`. -/
def Obligations.FloatLoadsStores : Prop :=
  ∀ (s s1 : State) (rd rs1 rs2 : Reg) (imm : BitVec 12) (pa : Word) (e : PmaEntry) (v : Nat), s.fs ≠ 0#2 →
    let va := s.effAddr rs1 imm
    (IsWord (iWord imm rs1 2#3 rd 0x07#7) (.flw rd rs1 imm) ∧
      (Reaches s va 4 .load pa e s1 → v < 2 ^ 32 → BytesAre s1 pa.toNat 4 v →
        LoadsF (.flw rd rs1 imm) s s1 4#64 rd (0xFFFFFFFF#32 ++ BitVec.ofNat 32 v))) ∧
    (IsWord (iWord imm rs1 3#3 rd 0x07#7) (.fld rd rs1 imm) ∧
      (Reaches s va 8 .load pa e s1 → v < 2 ^ 64 → BytesAre s1 pa.toNat 8 v →
        LoadsF (.fld rd rs1 imm) s s1 4#64 rd (BitVec.ofNat 64 v))) ∧
    (IsWord (sWord imm rs2 rs1 2#3 0x27#7) (.fsw rs1 rs2 imm) ∧
      (Reaches s va 4 .store pa e s1 → s.mem.wf = true →
        Stores (.fsw rs1 rs2 imm) s s1 4#64 pa.toNat 4 (s.getF rs2).toNat)) ∧
    (IsWord (sWord imm rs2 rs1 3#3 0x27#7) (.fsd rs1 rs2 imm) ∧
      (Reaches s va 8 .store pa e s1 → s.mem.wf = true →
        Stores (.fsd rs1 rs2 imm) s s1 4#64 pa.toNat 8 (s.getF rs2).toNat))

/-- The rounded arithmetic in both precisions: encoding, operands, and where the result and its flags go. What the soft-float
primitives answer is the matter of `FloatSumsAndProducts`, `FloatQuotientsAndRoots` and `FloatSpecialCases`. -/
def Obligations.FloatArith : Prop :=
  (∀ (s : State) (rd rs1 rs2 rs3 : Reg) (rm : RmField) (m : RoundingMode), s.fs ≠ 0#2 → s.roundingMode rm = some m →
      let sign : Word := 0x80000000#64
      let does := fun (i : Instr) (r : Word × FFlags) => WritesF i s 4#64 rd (0xFFFFFFFF#32 ++ slice r.1 0 32) r.2
      (IsWord (rWord 0x0#7 rs2 rs1 rm rd 0x53#7) (.faddS rd rs1 rs2 rm) ∧ does (.faddS rd rs1 rs2 rm) (fadd .single m (s.getS rs1) (s.getS rs2))) ∧
      (IsWord (rWord 0x4#7 rs2 rs1 rm rd 0x53#7) (.fsubS rd rs1 rs2 rm) ∧ does (.fsubS rd rs1 rs2 rm) (fsub .single m (s.getS rs1) (s.getS rs2))) ∧
      (IsWord (rWord 0x8#7 rs2 rs1 rm rd 0x53#7) (.fmulS rd rs1 rs2 rm) ∧ does (.fmulS rd rs1 rs2 rm) (fmul .single m (s.getS rs1) (s.getS rs2))) ∧
      (IsWord (rWord 0xc#7 rs2 rs1 rm rd 0x53#7) (.fdivS rd rs1 rs2 rm) ∧ does (.fdivS rd rs1 rs2 rm) (fdiv .single m (s.getS rs1) (s.getS rs2))) ∧
      (IsWord (rWord 0x2c#7 0#5 rs1 rm rd 0x53#7) (.fsqrtS rd rs1 rm) ∧ does (.fsqrtS rd rs1 rm) (fsqrt .single m (s.getS rs1))) ∧
      (IsWord (r4Word rs3 0#2 rs2 rs1 rm rd 0x43#7) (.fmaddS rd rs1 rs2 rs3 rm) ∧
        does (.fmaddS rd rs1 rs2 rs3 rm) (fma .single m (s.getS rs1) (s.getS rs2) (s.getS rs3))) ∧
      (IsWord (r4Word rs3 0#2 rs2 rs1 rm rd 0x47#7) (.fmsubS rd rs1 rs2 rs3 rm) ∧
        does (.fmsubS rd rs1 rs2 rs3 rm) (fma .single m (s.getS rs1) (s.getS rs2) (s.getS rs3 ^^^ sign))) ∧
      (IsWord (r4Word rs3 0#2 rs2 rs1 rm rd 0x4B#7) (.fnmsubS rd rs1 rs2 rs3 rm) ∧
        does (.fnmsubS rd rs1 rs2 rs3 rm) (fma .single m (s.getS rs1 ^^^ sign) (s.getS rs2) (s.getS rs3))) ∧
      (IsWord (r4Word rs3 0#2 rs2 rs1 rm rd 0x4F#7) (.fnmaddS rd rs1 rs2 rs3 rm) ∧
        does (.fnmaddS rd rs1 rs2 rs3 rm) (fma .single m (s.getS rs1 ^^^ sign) (s.getS rs2) (s.getS rs3 ^^^ sign)))) ∧
  (∀ (s : State) (rd rs1 rs2 rs3 : Reg) (rm : RmField) (m : RoundingMode), s.fs ≠ 0#2 → s.roundingMode rm = some m →
      let sign : Word := 0x8000000000000000#64
      let does := fun (i : Instr) (r : Word × FFlags) => WritesF i s 4#64 rd r.1 r.2
      (IsWord (rWord 0x1#7 rs2 rs1 rm rd 0x53#7) (.faddD rd rs1 rs2 rm) ∧ does (.faddD rd rs1 rs2 rm) (fadd .double m (s.getF rs1) (s.getF rs2))) ∧
      (IsWord (rWord 0x5#7 rs2 rs1 rm rd 0x53#7) (.fsubD rd rs1 rs2 rm) ∧ does (.fsubD rd rs1 rs2 rm) (fsub .double m (s.getF rs1) (s.getF rs2))) ∧
      (IsWord (rWord 0x9#7 rs2 rs1 rm rd 0x53#7) (.fmulD rd rs1 rs2 rm) ∧ does (.fmulD rd rs1 rs2 rm) (fmul .double m (s.getF rs1) (s.getF rs2))) ∧
      (IsWord (rWord 0xd#7 rs2 rs1 rm rd 0x53#7) (.fdivD rd rs1 rs2 rm) ∧ does (.fdivD rd rs1 rs2 rm) (fdiv .double m (s.getF rs1) (s.getF rs2))) ∧
      (IsWord (rWord 0x2d#7 0#5 rs1 rm rd 0x53#7) (.fsqrtD rd rs1 rm) ∧ does (.fsqrtD rd rs1 rm) (fsqrt .double m (s.getF rs1))) ∧
      (IsWord (r4Word rs3 1#2 rs2 rs1 rm rd 0x43#7) (.fmaddD rd rs1 rs2 rs3 rm) ∧
        does (.fmaddD rd rs1 rs2 rs3 rm) (fma .double m (s.getF rs1) (s.getF rs2) (s.getF rs3))) ∧
      (IsWord (r4Word rs3 1#2 rs2 rs1 rm rd 0x47#7) (.fmsubD rd rs1 rs2 rs3 rm) ∧
        does (.fmsubD rd rs1 rs2 rs3 rm) (fma .double m (s.getF rs1) (s.getF rs2) (s.getF rs3 ^^^ sign))) ∧
      (IsWord (r4Word rs3 1#2 rs2 rs1 rm rd 0x4B#7) (.fnmsubD rd rs1 rs2 rs3 rm) ∧
        does (.fnmsubD rd rs1 rs2 rs3 rm) (fma .double m (s.getF rs1 ^^^ sign) (s.getF rs2) (s.getF rs3))) ∧
      (IsWord (r4Word rs3 1#2 rs2 rs1 rm rd 0x4F#7) (.fnmaddD rd rs1 rs2 rs3 rm) ∧
        does (.fnmaddD rd rs1 rs2 rs3 rm) (fma .double m (s.getF rs1 ^^^ sign) (s.getF rs2) (s.getF rs3 ^^^ sign))))

/-- R571 to R573, R578, R585 and their doubles R621 to R623, R638, R641: bit patterns move unchanged but for the sign; no
flag is raised. Single operands are unboxed (R550). -/
def Obligations.SignInjectionAndMoves : Prop :=
  (∀ w : Word, unboxS w = if slice w 32 32 = 0xFFFFFFFF#32 then (slice w 0 32).setWidth 64 else 0x7FC00000#64) ∧
  ∀ (s : State) (rd rs1 rs2 : Reg), s.fs ≠ 0#2 →
    let injectsS := fun (i : Instr) (neg : Bool) =>
      ∃ v : BitVec 32, (∀ k, v.getLsbD k = if k = 31 then neg else ((s.getS rs1).setWidth 32).getLsbD k) ∧
        WritesF i s 4#64 rd (0xFFFFFFFF#32 ++ v) 0#5
    let injectsD := fun (i : Instr) (neg : Bool) =>
      ∃ v : BitVec 64, (∀ k, v.getLsbD k = if k = 63 then neg else (s.getF rs1).getLsbD k) ∧ WritesF i s 4#64 rd v 0#5
    (IsWord (rWord 0x10#7 rs2 rs1 0#3 rd 0x53#7) (.fsgnjS rd rs1 rs2) ∧
      injectsS (.fsgnjS rd rs1 rs2) ((s.getS rs2).getLsbD 31)) ∧
    (IsWord (rWord 0x10#7 rs2 rs1 1#3 rd 0x53#7) (.fsgnjnS rd rs1 rs2) ∧
      injectsS (.fsgnjnS rd rs1 rs2) (!(s.getS rs2).getLsbD 31)) ∧
    (IsWord (rWord 0x10#7 rs2 rs1 2#3 rd 0x53#7) (.fsgnjxS rd rs1 rs2) ∧
      injectsS (.fsgnjxS rd rs1 rs2) ((s.getS rs1).getLsbD 31 ^^ (s.getS rs2).getLsbD 31)) ∧
    (IsWord (rWord 0x11#7 rs2 rs1 0#3 rd 0x53#7) (.fsgnjD rd rs1 rs2) ∧
      injectsD (.fsgnjD rd rs1 rs2) ((s.getF rs2).getLsbD 63)) ∧
    (IsWord (rWord 0x11#7 rs2 rs1 1#3 rd 0x53#7) (.fsgnjnD rd rs1 rs2) ∧
      injectsD (.fsgnjnD rd rs1 rs2) (!(s.getF rs2).getLsbD 63)) ∧
    (IsWord (rWord 0x11#7 rs2 rs1 2#3 rd 0x53#7) (.fsgnjxD rd rs1 rs2) ∧
      injectsD (.fsgnjxD rd rs1 rs2) ((s.getF rs1).getLsbD 63 ^^ (s.getF rs2).getLsbD 63)) ∧
    (IsWord (rWord 0x70#7 0#5 rs1 0#3 rd 0x53#7) (.fmvXW rd rs1) ∧ WritesX (.fmvXW rd rs1) s 4#64 rd (((s.getF rs1).setWidth 32).signExtend 64)) ∧
    (IsWord (rWord 0x78#7 0#5 rs1 0#3 rd 0x53#7) (.fmvWX rd rs1) ∧
      WritesF (.fmvWX rd rs1) s 4#64 rd (0xFFFFFFFF#32 ++ (s.getX rs1).setWidth 32) 0#5) ∧
    (IsWord (rWord 0x71#7 0#5 rs1 0#3 rd 0x53#7) (.fmvXD rd rs1) ∧ WritesX (.fmvXD rd rs1) s 4#64 rd (s.getF rs1)) ∧
    (IsWord (rWord 0x79#7 0#5 rs1 0#3 rd 0x53#7) (.fmvDX rd rs1) ∧ WritesF (.fmvDX rd rs1) s 4#64 rd (s.getX rs1) 0#5)

/-- Minimum, maximum, comparison and classification in both precisions: encoding, operands, and where the result and flags
go. What the primitives answer is the matter of `ComparisonsOrderNumbers`. -/
def Obligations.MinMaxCompareClass : Prop :=
  ∀ (s : State) (rd rs1 rs2 : Reg), s.fs ≠ 0#2 →
    let box := fun v : Word => 0xFFFFFFFF#32 ++ v.setWidth 32
    (IsWord (rWord 0x14#7 rs2 rs1 0#3 rd 0x53#7) (.fminS rd rs1 rs2) ∧
      WritesF (.fminS rd rs1 rs2) s 4#64 rd (box (fmin .single (s.getS rs1) (s.getS rs2)).1) (fmin .single (s.getS rs1) (s.getS rs2)).2) ∧
    (IsWord (rWord 0x14#7 rs2 rs1 1#3 rd 0x53#7) (.fmaxS rd rs1 rs2) ∧
      WritesF (.fmaxS rd rs1 rs2) s 4#64 rd (box (fmax .single (s.getS rs1) (s.getS rs2)).1) (fmax .single (s.getS rs1) (s.getS rs2)).2) ∧
    (IsWord (rWord 0x50#7 rs2 rs1 2#3 rd 0x53#7) (.feqS rd rs1 rs2) ∧
      WritesXFlags (.feqS rd rs1 rs2) s 4#64 rd (feq .single (s.getS rs1) (s.getS rs2)).1 (feq .single (s.getS rs1) (s.getS rs2)).2) ∧
    (IsWord (rWord 0x50#7 rs2 rs1 1#3 rd 0x53#7) (.fltS rd rs1 rs2) ∧
      WritesXFlags (.fltS rd rs1 rs2) s 4#64 rd (flt .single (s.getS rs1) (s.getS rs2)).1 (flt .single (s.getS rs1) (s.getS rs2)).2) ∧
    (IsWord (rWord 0x50#7 rs2 rs1 0#3 rd 0x53#7) (.fleS rd rs1 rs2) ∧
      WritesXFlags (.fleS rd rs1 rs2) s 4#64 rd (fle .single (s.getS rs1) (s.getS rs2)).1 (fle .single (s.getS rs1) (s.getS rs2)).2) ∧
    (IsWord (rWord 0x70#7 0#5 rs1 1#3 rd 0x53#7) (.fclassS rd rs1) ∧ WritesX (.fclassS rd rs1) s 4#64 rd (fclass .single (s.getS rs1))) ∧
    (IsWord (rWord 0x15#7 rs2 rs1 0#3 rd 0x53#7) (.fminD rd rs1 rs2) ∧
      WritesF (.fminD rd rs1 rs2) s 4#64 rd (fmin .double (s.getF rs1) (s.getF rs2)).1 (fmin .double (s.getF rs1) (s.getF rs2)).2) ∧
    (IsWord (rWord 0x15#7 rs2 rs1 1#3 rd 0x53#7) (.fmaxD rd rs1 rs2) ∧
      WritesF (.fmaxD rd rs1 rs2) s 4#64 rd (fmax .double (s.getF rs1) (s.getF rs2)).1 (fmax .double (s.getF rs1) (s.getF rs2)).2) ∧
    (IsWord (rWord 0x51#7 rs2 rs1 2#3 rd 0x53#7) (.feqD rd rs1 rs2) ∧
      WritesXFlags (.feqD rd rs1 rs2) s 4#64 rd (feq .double (s.getF rs1) (s.getF rs2)).1 (feq .double (s.getF rs1) (s.getF rs2)).2) ∧
    (IsWord (rWord 0x51#7 rs2 rs1 1#3 rd 0x53#7) (.fltD rd rs1 rs2) ∧
      WritesXFlags (.fltD rd rs1 rs2) s 4#64 rd (flt .double (s.getF rs1) (s.getF rs2)).1 (flt .double (s.getF rs1) (s.getF rs2)).2) ∧
    (IsWord (rWord 0x51#7 rs2 rs1 0#3 rd 0x53#7) (.fleD rd rs1 rs2) ∧
      WritesXFlags (.fleD rd rs1 rs2) s 4#64 rd (fle .double (s.getF rs1) (s.getF rs2)).1 (fle .double (s.getF rs1) (s.getF rs2)).2) ∧
    (IsWord (rWord 0x71#7 0#5 rs1 1#3 rd 0x53#7) (.fclassD rd rs1) ∧ WritesX (.fclassD rd rs1) s 4#64 rd (fclass .double (s.getF rs1)))

/-- R576, R577, R586, R587 and R632, R633, R636, R637: encoding, operand, and where the integer and the flags go; what
`fToInt` answers is the matter of `FloatToIntegerRange`. R583, R584, R588, R589, R634, R635, R639, R640, and the conversions
between the precisions R626, R627: the same for a floating-point result; what `intToF` and `fToF` answer is the matter of
`FloatSumsAndProducts`. -/
def Obligations.FloatConversions : Prop :=
  (∀ (s : State) (rd rs1 : Reg) (rm : RmField) (m : RoundingMode), s.fs ≠ 0#2 → s.roundingMode rm = some m →
    let does := fun (i : Instr) (r : Word × FFlags) => WritesXFlags i s 4#64 rd r.1 r.2
    (IsWord (rWord 0x60#7 0#5 rs1 rm rd 0x53#7) (.fcvtWS rd rs1 rm) ∧
      does (.fcvtWS rd rs1 rm) (fToInt .single .w m (s.getS rs1))) ∧
    (IsWord (rWord 0x60#7 1#5 rs1 rm rd 0x53#7) (.fcvtWUS rd rs1 rm) ∧
      does (.fcvtWUS rd rs1 rm) (fToInt .single .wu m (s.getS rs1))) ∧
    (IsWord (rWord 0x60#7 2#5 rs1 rm rd 0x53#7) (.fcvtLS rd rs1 rm) ∧
      does (.fcvtLS rd rs1 rm) (fToInt .single .l m (s.getS rs1))) ∧
    (IsWord (rWord 0x60#7 3#5 rs1 rm rd 0x53#7) (.fcvtLUS rd rs1 rm) ∧
      does (.fcvtLUS rd rs1 rm) (fToInt .single .lu m (s.getS rs1))) ∧
    (IsWord (rWord 0x61#7 0#5 rs1 rm rd 0x53#7) (.fcvtWD rd rs1 rm) ∧
      does (.fcvtWD rd rs1 rm) (fToInt .double .w m (s.getF rs1))) ∧
    (IsWord (rWord 0x61#7 1#5 rs1 rm rd 0x53#7) (.fcvtWUD rd rs1 rm) ∧
      does (.fcvtWUD rd rs1 rm) (fToInt .double .wu m (s.getF rs1))) ∧
    (IsWord (rWord 0x61#7 2#5 rs1 rm rd 0x53#7) (.fcvtLD rd rs1 rm) ∧
      does (.fcvtLD rd rs1 rm) (fToInt .double .l m (s.getF rs1))) ∧
    (IsWord (rWord 0x61#7 3#5 rs1 rm rd 0x53#7) (.fcvtLUD rd rs1 rm) ∧
      does (.fcvtLUD rd rs1 rm) (fToInt .double .lu m (s.getF rs1)))) ∧
  (∀ (s : State) (rd rs1 : Reg) (rm : RmField) (m : RoundingMode), s.fs ≠ 0#2 → s.roundingMode rm = some m →
    let doesS := fun (i : Instr) (r : Word × FFlags) => WritesF i s 4#64 rd (0xFFFFFFFF#32 ++ slice r.1 0 32) r.2
    let doesD := fun (i : Instr) (r : Word × FFlags) => WritesF i s 4#64 rd r.1 r.2
    (IsWord (rWord 0x68#7 0#5 rs1 rm rd 0x53#7) (.fcvtSW rd rs1 rm) ∧
      doesS (.fcvtSW rd rs1 rm) (intToF .single .w m (s.getX rs1))) ∧
    (IsWord (rWord 0x68#7 1#5 rs1 rm rd 0x53#7) (.fcvtSWU rd rs1 rm) ∧
      doesS (.fcvtSWU rd rs1 rm) (intToF .single .wu m (s.getX rs1))) ∧
    (IsWord (rWord 0x68#7 2#5 rs1 rm rd 0x53#7) (.fcvtSL rd rs1 rm) ∧
      doesS (.fcvtSL rd rs1 rm) (intToF .single .l m (s.getX rs1))) ∧
    (IsWord (rWord 0x68#7 3#5 rs1 rm rd 0x53#7) (.fcvtSLU rd rs1 rm) ∧
      doesS (.fcvtSLU rd rs1 rm) (intToF .single .lu m (s.getX rs1))) ∧
    (IsWord (rWord 0x69#7 0#5 rs1 rm rd 0x53#7) (.fcvtDW rd rs1 rm) ∧
      doesD (.fcvtDW rd rs1 rm) (intToF .double .w m (s.getX rs1))) ∧
    (IsWord (rWord 0x69#7 1#5 rs1 rm rd 0x53#7) (.fcvtDWU rd rs1 rm) ∧
      doesD (.fcvtDWU rd rs1 rm) (intToF .double .wu m (s.getX rs1))) ∧
    (IsWord (rWord 0x69#7 2#5 rs1 rm rd 0x53#7) (.fcvtDL rd rs1 rm) ∧
      doesD (.fcvtDL rd rs1 rm) (intToF .double .l m (s.getX rs1))) ∧
    (IsWord (rWord 0x69#7 3#5 rs1 rm rd 0x53#7) (.fcvtDLU rd rs1 rm) ∧
      doesD (.fcvtDLU rd rs1 rm) (intToF .double .lu m (s.getX rs1))) ∧
    (IsWord (rWord 0x20#7 1#5 rs1 rm rd 0x53#7) (.fcvtSD rd rs1 rm) ∧ doesS (.fcvtSD rd rs1 rm) (fToF .double .single m (s.getF rs1))) ∧
    (IsWord (rWord 0x21#7 0#5 rs1 rm rd 0x53#7) (.fcvtDS rd rs1 rm) ∧ doesD (.fcvtDS rd rs1 rm) (fToF .single .double m (s.getS rs1))))

/-- R554: with `FS` Off every floating-point instruction is illegal, before its rounding mode or its address is looked at;
with the unit on, an instruction whose rounding mode is reserved is illegal (R552). R552: which mode a field selects; the
three-bit patterns are those of the table. -/
def Obligations.FloatUnitEnable : Prop :=
  (∀ (i : Instr) (s : State), needsFp i = true →
    (s.fs = 0#2 → Traps i s .illegalInstruction i.trapValue) ∧
    (∀ rm : RmField, rmOf i = some rm →
      (rm = 5#3 ∨ rm = 6#3 ∨ (rm = 7#3 ∧ (s.frm = 5#3 ∨ s.frm = 6#3 ∨ s.frm = 7#3))) → Traps i s .illegalInstruction i.trapValue)) ∧
  (∀ (s : State) (rm : RmField),
    let eff := if rm = 7#3 then s.frm else rm
    (eff = 0#3 ↔ s.roundingMode rm = some .rne) ∧ (eff = 1#3 ↔ s.roundingMode rm = some .rtz) ∧
      (eff = 2#3 ↔ s.roundingMode rm = some .rdn) ∧ (eff = 3#3 ↔ s.roundingMode rm = some .rup) ∧
      (eff = 4#3 ↔ s.roundingMode rm = some .rmm) ∧ (4 < eff.toNat ↔ s.roundingMode rm = none))

/-- R555, R553 ("correctly rounded in the given mode"), for a finite result: it keeps the sign of `(-1)^neg * m * 2^e`, is
the largest representable magnitude not above the exact one, the least not below it, or a nearest one, as the mode says, with
ties to even or away from zero; and the inexact flag is raised exactly when it differs from the exact number. When the result
is finite is the matter of `OverflowAndUnderflow`. -/
def Obligations.RoundingIsCorrect : Prop :=
  ∀ (fmt : FloatFmt) (rm : RoundingMode) (neg : Bool) (m : Nat) (e : Int) (n : Bool) (r : Nat) (re : Int), m ≠ 0 →
    let x : ℚ := magnitude m e
    let y : ℚ := magnitude r re
    let out := roundPack fmt rm neg m e
    unpack fmt out.1 = .finite n r re →
      n = neg ∧ (out.2.getLsbD 0 = true ↔ y ≠ x) ∧
      (rm = .rtz ∨ (rm = .rdn ∧ neg = false) ∨ (rm = .rup ∧ neg = true) →
        y ≤ x ∧ ∀ q, Representable fmt q → q ≤ x → q ≤ y) ∧
      ((rm = .rdn ∧ neg = true) ∨ (rm = .rup ∧ neg = false) →
        x ≤ y ∧ ∀ q, Representable fmt q → x ≤ q → y ≤ q) ∧
      (rm = .rne ∨ rm = .rmm → ∀ q, Representable fmt q → |y - x| ≤ |q - x| ∧
        (q ≠ y → |q - x| = |y - x| → if rm = .rne then r % 2 = 0 else x < y))

/-- R553, R555: what rounding answers, in full. The number is rounded to a multiple of the last place of the format at its
magnitude; past the largest finite number the result is infinity or that number, by the mode, with `OF|NX`, and only then;
`UF|NX` is raised exactly when the result is inexact and, rounded with an unbounded exponent, below the smallest normal
number. Rounding raises neither NV nor DZ and answers no NaN. -/
def Obligations.OverflowAndUnderflow : Prop :=
  ∀ (fmt : FloatFmt) (rm : RoundingMode) (neg : Bool) (m : Nat) (e : Int),
    let out := roundPack fmt rm neg m e
    (m ≠ 0 → CorrectlyRounded fmt rm neg ((magnitude m e : ℚ) : ℝ) out) ∧ (m = 0 → out = (packZero fmt neg, 0#5)) ∧
      (out.2.getLsbD 2 = true → out.2 = 0x05#5) ∧ (out.2.getLsbD 1 = true → out.2 = 0x03#5) ∧
      out.2.getLsbD 3 = false ∧ out.2.getLsbD 4 = false ∧
      (∀ n, unpack fmt out.1 = .inf n →
        n = neg ∧ out.2 = 0x05#5 ∧ rm ≠ .rtz ∧ (rm = .rdn → neg = true) ∧ (rm = .rup → neg = false)) ∧
      ∀ b, unpack fmt out.1 ≠ .nan b

/-- R555 ("correctly rounded in the given mode") on finite operands: sum, difference, product and fused multiply-add are the
exact rational result, rounded once; an exact zero has the sign the rule gives; the conversions from an integer and between
the formats round their operand. `IsRounded` says what rounding is, flags included. -/
def Obligations.FloatSumsAndProducts : Prop :=
  (∀ (fmt dst : FloatFmt) (rm : RoundingMode) (a b c : Word) (n1 n2 n3 : Bool) (m1 m2 m3 : Nat) (e1 e2 e3 : Int),
    unpack fmt a = .finite n1 m1 e1 → unpack fmt b = .finite n2 m2 e2 →
    let x := signedValue n1 m1 e1
    let y := signedValue n2 m2 e2
    let z := signedValue n3 m3 e3
    let zeroSum := fun p q : Bool => if p = q then p else decide (rm = .rdn)
    IsRounded fmt rm ((x + y : ℚ) : ℝ) (zeroSum n1 n2) (fadd fmt rm a b) ∧
    IsRounded fmt rm ((x - y : ℚ) : ℝ) (zeroSum n1 (!n2)) (fsub fmt rm a b) ∧
    IsRounded fmt rm ((x * y : ℚ) : ℝ) (n1 != n2) (fmul fmt rm a b) ∧
    (unpack fmt c = .finite n3 m3 e3 →
      IsRounded fmt rm ((x * y + z : ℚ) : ℝ) (zeroSum (n1 != n2) n3) (fma fmt rm a b c)) ∧
    IsRounded dst rm ((x : ℚ) : ℝ) n1 (fToF fmt dst rm a)) ∧
  (∀ (fmt : FloatFmt) (rm : RoundingMode) (v : Word),
    let low : BitVec 32 := v.setWidth 32
    IsRounded fmt rm (low.toInt : ℝ) false (intToF fmt .w rm v) ∧ IsRounded fmt rm (low.toNat : ℝ) false (intToF fmt .wu rm v) ∧
    IsRounded fmt rm (v.toInt : ℝ) false (intToF fmt .l rm v) ∧ IsRounded fmt rm (v.toNat : ℝ) false (intToF fmt .lu rm v))

/-- R555 on finite operands: the quotient by a nonzero number and the square root of a positive one are the exact real
result, rounded once, with the flags of that rounding; a zero quotient has the exclusive or of the signs. -/
def Obligations.FloatQuotientsAndRoots : Prop :=
  ∀ (fmt : FloatFmt) (rm : RoundingMode) (a b : Word) (n1 n2 : Bool) (m1 m2 : Nat) (e1 e2 : Int),
    unpack fmt a = .finite n1 m1 e1 →
    (unpack fmt b = .finite n2 m2 e2 → m2 ≠ 0 →
      IsRounded fmt rm ((signedValue n1 m1 e1 / signedValue n2 m2 e2 : ℚ) : ℝ) (n1 != n2) (fdiv fmt rm a b)) ∧
    (m1 ≠ 0 → n1 = false → CorrectlyRounded fmt rm false (Real.sqrt ((magnitude m1 e1 : ℚ) : ℝ)) (fsqrt fmt rm a))

/-- R551, R555: the invalid operations, the canonical NaN, operands that are infinite, division by zero and the signs of
zero. -/
def Obligations.FloatSpecialCases : Prop :=
  ∀ (fmt dst : FloatFmt) (m : RoundingMode) (a b c : Word),
    let ua := unpack fmt a
    let ub := unpack fmt b
    let uc := unpack fmt c
    let invalid : Word × FFlags := (fmt.canonicalNan, 0x10#5)
    let quiet : Word × FFlags := (fmt.canonicalNan, 0#5)
    let infinite := fun n : Bool => ((packInf fmt n, 0#5) : Word × FFlags)
    let zero := fun n : Bool => ((packZero fmt n, 0#5) : Word × FFlags)
    let timesInf := fun n : Bool => ∃ n' k e, ub = .inf n ∨ (ub = .finite n' k e ∧ n' = n ∧ k ≠ 0)
    (ua = .nan true ∨ ub = .nan true →
      fadd fmt m a b = invalid ∧ fsub fmt m a b = invalid ∧ fmul fmt m a b = invalid ∧ fdiv fmt m a b = invalid ∧
      fma fmt m a b c = invalid) ∧
    (uc = .nan true → fma fmt m a b c = invalid) ∧
    (ua = .nan true → fsqrt fmt m a = invalid ∧ fToF fmt dst m a = (dst.canonicalNan, 0x10#5)) ∧
    (ua = .nan false → ub.isSnan = false →
      fadd fmt m a b = quiet ∧ fadd fmt m b a = quiet ∧ fsub fmt m a b = quiet ∧ fsub fmt m b a = quiet ∧
      fmul fmt m a b = quiet ∧ fmul fmt m b a = quiet ∧ fdiv fmt m a b = quiet ∧ fdiv fmt m b a = quiet ∧
      (uc.isSnan = false → fma fmt m a b c = quiet ∧ fma fmt m b a c = quiet)) ∧
    (ua = .nan false → fsqrt fmt m a = quiet ∧ fToF fmt dst m a = (dst.canonicalNan, 0#5)) ∧
    (uc = .nan false → ua.isNan = false → ub.isNan = false →
      ¬(∃ n n' e, (ua = .inf n ∧ ub = .finite n' 0 e) ∨ (ub = .inf n ∧ ua = .finite n' 0 e)) → fma fmt m a b c = quiet) ∧
    (∀ n, ua = .inf n → ub = .inf (!n) → fadd fmt m a b = invalid ∧ fsub fmt m a b = infinite n) ∧
    (∀ n, ua = .inf n → ub = .inf n → fsub fmt m a b = invalid ∧ fadd fmt m a b = infinite n) ∧
    (∀ n n' k e, ua = .inf n → ub = .finite n' k e →
      fadd fmt m a b = infinite n ∧ fadd fmt m b a = infinite n ∧ fsub fmt m a b = infinite n ∧ fsub fmt m b a = infinite (!n) ∧
      fdiv fmt m a b = infinite (n != n') ∧ fdiv fmt m b a = zero (n' != n)) ∧
    (∀ n n', ua = .inf n → ub = .inf n' → fdiv fmt m a b = invalid) ∧
    (∀ n n' e, ua = .inf n → ub = .finite n' 0 e →
      fmul fmt m a b = invalid ∧ fmul fmt m b a = invalid ∧ fma fmt m a b c = invalid ∧ fma fmt m b a c = invalid) ∧
    (∀ n n', ua = .inf n → timesInf n' →
      fmul fmt m a b = infinite (n != n') ∧ fmul fmt m b a = infinite (n' != n) ∧
      (uc = .inf (!(n != n')) → fma fmt m a b c = invalid ∧ fma fmt m b a c = invalid) ∧
      (uc = .inf (n != n') ∨ (∃ n3 k e, uc = .finite n3 k e) →
        fma fmt m a b c = infinite (n != n') ∧ fma fmt m b a c = infinite (n != n'))) ∧
    (∀ n1 k1 e1 n2 k2 e2 n3, ua = .finite n1 k1 e1 → ub = .finite n2 k2 e2 → uc = .inf n3 → fma fmt m a b c = infinite n3) ∧
    (∀ n n' e e', ua = .finite n 0 e → ub = .finite n' 0 e' → fdiv fmt m a b = invalid) ∧
    (∀ k e, k ≠ 0 → ua = .finite true k e → fsqrt fmt m a = invalid) ∧
    (ua = .inf true → fsqrt fmt m a = invalid) ∧ (ua = .inf false → fsqrt fmt m a = infinite false) ∧
    (∀ n, ua = .inf n → fToF fmt dst m a = (packInf dst n, 0#5)) ∧
    (∀ n n' k e e', k ≠ 0 → ua = .finite n k e → ub = .finite n' 0 e' → fdiv fmt m a b = (packInf fmt (n != n'), 0x08#5)) ∧
    (∀ n e, ua = .finite n 0 e → fsqrt fmt m a = zero n) ∧
    (∀ n k e, ua = .finite n k e → ub = .finite (!n) k e → fadd fmt m a b = zero (decide (m = .rdn))) ∧
    (∀ n k e, ua = .finite n k e → ub = .finite n k e → fsub fmt m a b = zero (decide (m = .rdn))) ∧
    (∀ n e e', ua = .finite n 0 e → ub = .finite n 0 e' → fadd fmt m a b = zero n) ∧
    (∀ n e e', ua = .finite n 0 e → ub = .finite (!n) 0 e' → fsub fmt m a b = zero n)

/-- R574, R575, R579 to R582: the comparisons follow the order of the numbers, the infinities among them; a NaN makes them
false, with NV for any NaN (`flt`, `fle`) or a signaling one (`feq`, `fmin`, `fmax`). The minimum and the maximum are one of
the two operands, `-0` below `+0`; the other operand where one is a NaN, and the canonical NaN where both are. Each class has
one bit.
-/
def Obligations.ComparisonsOrderNumbers : Prop :=
  ∀ (fmt : FloatFmt) (a b : Word),
    let ua := unpack fmt a
    let ub := unpack fmt b
    (∀ x y, ua.extended = some x → ub.extended = some y →
      flt fmt a b = (if x < y then 1#64 else 0#64, 0#5) ∧ fle fmt a b = (if x ≤ y then 1#64 else 0#64, 0#5) ∧
        feq fmt a b = (if x = y then 1#64 else 0#64, 0#5) ∧
        (x < y → fmin fmt a b = (a, 0#5) ∧ fmax fmt a b = (b, 0#5)) ∧
        (y < x → fmin fmt a b = (b, 0#5) ∧ fmax fmt a b = (a, 0#5)) ∧
        (x = y → (fmin fmt a b = (a, 0#5) ∨ fmin fmt a b = (b, 0#5)) ∧ (fmax fmt a b = (a, 0#5) ∨ fmax fmt a b = (b, 0#5)))) ∧
    (∀ e e', ua = .finite true 0 e → ub = .finite false 0 e' →
      fmin fmt a b = (a, 0#5) ∧ fmin fmt b a = (a, 0#5) ∧ fmax fmt a b = (b, 0#5) ∧ fmax fmt b a = (b, 0#5)) ∧
    (ua.isNan = true ∨ ub.isNan = true →
      flt fmt a b = (0#64, 0x10#5) ∧ fle fmt a b = (0#64, 0x10#5) ∧
        feq fmt a b = (0#64, if ua.isSnan || ub.isSnan then 0x10#5 else 0#5)) ∧
    (let nv : FFlags := if ua.isSnan || ub.isSnan then 0x10#5 else 0#5
     (ua.isNan = true → ub.isNan = false → fmin fmt a b = (b, nv) ∧ fmax fmt a b = (b, nv) ∧
        fmin fmt b a = (b, nv) ∧ fmax fmt b a = (b, nv)) ∧
      (ua.isNan = true → ub.isNan = true → fmin fmt a b = (fmt.canonicalNan, nv) ∧ fmax fmt a b = (fmt.canonicalNan, nv))) ∧
    (ua = .inf true → fclass fmt a = 0x001#64) ∧ (ua = .inf false → fclass fmt a = 0x080#64) ∧
    (ua = .nan true → fclass fmt a = 0x100#64) ∧ (ua = .nan false → fclass fmt a = 0x200#64) ∧
    ∀ n k e, ua = .finite n k e →
      (k = 0 → fclass fmt a = if n then 0x008#64 else 0x010#64) ∧
      (k ≠ 0 → k < 2 ^ fmt.manBits → fclass fmt a = if n then 0x004#64 else 0x020#64) ∧
      (2 ^ fmt.manBits ≤ k → fclass fmt a = if n then 0x002#64 else 0x040#64)

/-- R558: NaN and the infinities saturate with NV; a finite number is rounded to an integer in the mode, then tested: out of
the range of the destination it saturates with NV alone, in range it is returned, with NX when the rounding changed it; a
32-bit result, signed or unsigned, is sign-extended from bit 31. The last clause is the rule for every finite number, the
three before it are cases of it. -/
def Obligations.FloatToIntegerRange : Prop :=
  ∀ (fmt : FloatFmt) (m : RoundingMode) (a : Word),
    let ua := unpack fmt a
    let top := fun (t : IntFmt) (v : Word) => fToInt fmt t m a = (v, 0x10#5)
    ((ua = .inf false ∨ ua.isNan = true) →
      top .w 0x7FFFFFFF#64 ∧ top .wu 0xFFFFFFFFFFFFFFFF#64 ∧ top .l 0x7FFFFFFFFFFFFFFF#64 ∧ top .lu 0xFFFFFFFFFFFFFFFF#64) ∧
    (ua = .inf true → top .w 0xFFFFFFFF80000000#64 ∧ top .wu 0#64 ∧ top .l 0x8000000000000000#64 ∧ top .lu 0#64) ∧
    (∀ k e, ua = .finite false k e → (2 : ℚ) ^ 64 ≤ magnitude k e →
      top .w 0x7FFFFFFF#64 ∧ top .wu 0xFFFFFFFFFFFFFFFF#64 ∧ top .l 0x7FFFFFFFFFFFFFFF#64 ∧ top .lu 0xFFFFFFFFFFFFFFFF#64) ∧
    (∀ k e, ua = .finite true k e → (2 : ℚ) ^ 63 < magnitude k e - 1 →
      top .w 0xFFFFFFFF80000000#64 ∧ top .wu 0#64 ∧ top .l 0x8000000000000000#64 ∧ top .lu 0#64) ∧
    (∀ n k e (v : Int), ua = .finite n k e → (v : ℚ) = (if n then -1 else 1) * magnitude k e →
      (-2 ^ 31 ≤ v → v < 2 ^ 31 → fToInt fmt .w m a = (BitVec.ofInt 64 v, 0#5)) ∧
      (0 ≤ v → v < 2 ^ 32 → fToInt fmt .wu m a = ((BitVec.ofInt 32 v).signExtend 64, 0#5)) ∧
      (-2 ^ 63 ≤ v → v < 2 ^ 63 → fToInt fmt .l m a = (BitVec.ofInt 64 v, 0#5)) ∧
      (0 ≤ v → v < 2 ^ 64 → fToInt fmt .lu m a = (BitVec.ofInt 64 v, 0#5))) ∧
    (∀ (n : Bool) (k : Nat) (e r : Int), ua = .finite n k e → RoundsTo m n ((magnitude k e : ℚ) : ℝ) r →
      let v : Int := if n then -r else r
      let flags : FFlags := if (r : ℚ) = magnitude k e then 0#5 else 0x01#5
      let does := fun (t : IntFmt) (lo hi : Int) (word : Int → Word) =>
        (v < lo → top t (word lo)) ∧ (hi < v → top t (word hi)) ∧ (lo ≤ v → v ≤ hi → fToInt fmt t m a = (word v, flags))
      let word32 := fun j : Int => (BitVec.ofInt 32 j).signExtend 64
      does .w (-2 ^ 31) (2 ^ 31 - 1) word32 ∧ does .wu 0 (2 ^ 32 - 1) word32 ∧
        does .l (-2 ^ 63) (2 ^ 63 - 1) (BitVec.ofInt 64) ∧ does .lu 0 (2 ^ 64 - 1) (BitVec.ofInt 64))

/-- R650, R653 to R658: an allowed access reads the old value into `x[rd]` and, when it writes, applies the register's own
write rule to the new value; a refused access is illegal and changes nothing. `CsrAccessRules` says which accesses are
allowed. -/
def Obligations.CsrInstructions : Prop :=
  ∀ (s : State) (rd rs1 uimm : Reg) (csr : BitVec 12),
    let does := fun (i : Instr) (w : BitVec 32) (wr : Bool) (new : Word → Word) =>
      (∀ c, s.checkCsr csr wr = some c →
        let u := if wr then csrWrite s c (new (csrRead s c)) else s
        ∃ t, exec i s = .next t ∧ XBecomes rd (csrRead s c) s t ∧ RetiredAt (s.pc + 4#64) s t ∧ OnlyX u t) ∧
      (s.checkCsr csr wr = none → Traps i s .illegalInstruction (w.setWidth 64))
    (IsWord (iWord csr rs1 1#3 rd 0x73#7) (.csrrw rd rs1 csr) ∧ does (.csrrw rd rs1 csr) (iWord csr rs1 1#3 rd 0x73#7) (true) (fun _ => s.getX rs1)) ∧
    (IsWord (iWord csr rs1 2#3 rd 0x73#7) (.csrrs rd rs1 csr) ∧ does (.csrrs rd rs1 csr) (iWord csr rs1 2#3 rd 0x73#7) (rs1 != 0#5) (fun old => old ||| s.getX rs1)) ∧
    (IsWord (iWord csr rs1 3#3 rd 0x73#7) (.csrrc rd rs1 csr) ∧ does (.csrrc rd rs1 csr) (iWord csr rs1 3#3 rd 0x73#7) (rs1 != 0#5) (fun old => old &&& ~~~(s.getX rs1))) ∧
    (IsWord (iWord csr uimm 5#3 rd 0x73#7) (.csrrwi rd uimm csr) ∧ does (.csrrwi rd uimm csr) (iWord csr uimm 5#3 rd 0x73#7) (true) (fun _ => uimm.setWidth 64)) ∧
    (IsWord (iWord csr uimm 6#3 rd 0x73#7) (.csrrsi rd uimm csr) ∧ does (.csrrsi rd uimm csr) (iWord csr uimm 6#3 rd 0x73#7) (uimm != 0#5) (fun old => old ||| uimm.setWidth 64)) ∧
    (IsWord (iWord csr uimm 7#3 rd 0x73#7) (.csrrci rd uimm csr) ∧ does (.csrrci rd uimm csr) (iWord csr uimm 7#3 rd 0x73#7) (uimm != 0#5) (fun old => old &&& ~~~(uimm.setWidth 64)))

/-- R651: the access is refused exactly when one of the six conditions holds; an access that is not refused is of the register
that the table of 10_state R46 puts at the address. -/
def Obligations.CsrAccessRules : Prop :=
  ∀ (s : State) (a : BitVec 12) (wr : Bool),
    let i := a.toNat % 32
    let counter := 0xC00 ≤ a.toNat ∧ a.toNat ≤ 0xC1F
    let table : List (BitVec 12 × Csr) :=
      [(0x001#12, .fflags), (0x002#12, .frm), (0x003#12, .fcsr), (0xC00#12, .cycle), (0xC01#12, .time), (0xC02#12, .instret),
        (0x100#12, .sstatus), (0x104#12, .sie), (0x105#12, .stvec), (0x106#12, .scounteren), (0x140#12, .sscratch),
        (0x141#12, .sepc), (0x142#12, .scause), (0x143#12, .stval), (0x144#12, .sip), (0x180#12, .satp),
        (0xF11#12, .mvendorid), (0xF12#12, .marchid), (0xF13#12, .mimpid), (0xF14#12, .mhartid), (0x300#12, .mstatus),
        (0x301#12, .misa), (0x302#12, .medeleg), (0x303#12, .mideleg), (0x304#12, .mie), (0x305#12, .mtvec),
        (0x306#12, .mcounteren), (0x340#12, .mscratch), (0x341#12, .mepc), (0x342#12, .mcause), (0x343#12, .mtval),
        (0x344#12, .mip), (0xB00#12, .mcycle), (0xB02#12, .minstret)]
    let standsAt := fun c : Csr =>
      (a, c) ∈ table ∨ (0xC03 ≤ a.toNat ∧ a.toNat ≤ 0xC1F ∧ c = .hpmcounter) ∨
        (0xB03 ≤ a.toNat ∧ a.toNat ≤ 0xB1F ∧ c = .mhpmcounter) ∨ (0x323 ≤ a.toNat ∧ a.toNat ≤ 0x33F ∧ c = .mhpmevent)
    (∀ c, Csr.ofAddr a = some c ↔ standsAt c) ∧ (∀ c, s.checkCsr a wr = some c → Csr.ofAddr a = some c) ∧
    (s.checkCsr a wr = none ↔
      (∀ c, ¬standsAt c) ∨
      s.priv.bits.toNat < a.toNat / 256 % 4 ∨
      (wr = true ∧ a.toNat / 1024 = 3) ∨
      ((a = 0x001#12 ∨ a = 0x002#12 ∨ a = 0x003#12) ∧ s.fs = 0#2) ∨
      (counter ∧ s.priv ≠ .machine ∧ (s.mcounteren.getLsbD i = false ∨ (s.priv = .user ∧ s.scounteren.getLsbD i = false))) ∨
      (a = 0x180#12 ∧ s.priv = .supervisor ∧ s.tvm = true))

/-- R55, R70, R71: which bits of `mstatus` a write through `mstatus` or `sstatus` changes, bit by bit; the reserved `MPP`
value keeps the old one; what the two registers read. -/
def Obligations.StatusRegisterWrites : Prop :=
  ∀ (s : State) (v : Word), Within s.mstatus mstatusMask →
    let t := csrWrite s .mstatus v
    let u := csrWrite s .sstatus v
    (∀ k, t.mstatus.getLsbD k =
      if k ∈ [11, 12] then (if slice v 11 2 = 2#2 then s.mstatus.getLsbD k else v.getLsbD k)
      else if k ∈ [1, 3, 5, 7, 8, 13, 14, 17, 18, 19, 20, 21, 22] then v.getLsbD k else s.mstatus.getLsbD k) ∧
    (∀ k, u.mstatus.getLsbD k = if k ∈ [1, 5, 8, 13, 14, 18, 19] then v.getLsbD k else s.mstatus.getLsbD k) ∧
    (∀ w : State, w = t ∨ w = u →
      w = { s with mstatus := w.mstatus, tlbRead := w.tlbRead, tlbWrite := w.tlbWrite, tlbCode := w.tlbCode } ∧
      (slice w.mstatus 17 3 ≠ slice s.mstatus 17 3 ∨ slice w.mstatus 11 2 ≠ slice s.mstatus 11 2 →
        w.tlbRead = [] ∧ w.tlbWrite = [] ∧ w.tlbCode = [])) ∧
    (∀ k, (csrRead s .mstatus).getLsbD k =
      if k = 33 ∨ k = 35 then true else if k = 63 then decide (s.fs = 3#2) else s.mstatus.getLsbD k) ∧
    (∀ k, (csrRead s .sstatus).getLsbD k =
      if k = 33 then true else if k = 63 then decide (s.fs = 3#2)
      else if k ∈ [1, 5, 8, 13, 14, 18, 19] then s.mstatus.getLsbD k else false)

/-- R64: a write with a legal `MODE` stores `MODE` and `PPN`, zeroes `ASID` and empties the TLBs; any other is ignored
whole. R48 to R50, R56 to R63, R65 to R68, R72 to R85: what each of the other CSRs stores and reads. -/
def Obligations.CsrStorage : Prop :=
  (∀ (s : State) (v : Word),
    let mode := slice v 60 4
    (mode = 0#4 ∨ mode = 8#4 ∨ mode = 9#4 ∨ mode = 10#4 →
      csrWrite s .satp v = { s with satp := mode ++ 0#16 ++ slice v 0 44, tlbRead := [], tlbWrite := [], tlbCode := [] }) ∧
    (mode ≠ 0#4 → mode ≠ 8#4 → mode ≠ 9#4 → mode ≠ 10#4 → csrWrite s .satp v = s) ∧ csrRead s .satp = s.satp) ∧
  (∀ (s : State) (v : Word),
    let fsDirty : Word := s.mstatus ||| 0x6000#64
    (csrWrite s .fflags v = { s with fcsr := slice s.fcsr 5 3 ++ slice v 0 5, mstatus := fsDirty }) ∧
    (csrWrite s .frm v = { s with fcsr := slice v 0 3 ++ slice s.fcsr 0 5, mstatus := fsDirty }) ∧
    (csrWrite s .fcsr v = { s with fcsr := slice v 0 8, mstatus := fsDirty }) ∧
    (csrRead s .fflags = (slice s.fcsr 0 5).setWidth 64 ∧ csrRead s .frm = (slice s.fcsr 5 3).setWidth 64 ∧
      csrRead s .fcsr = s.fcsr.setWidth 64) ∧
    (csrWrite s .sie v = { s with mie := (s.mie &&& ~~~s.mideleg) ||| (v &&& s.mideleg) } ∧ csrRead s .sie = s.mie &&& s.mideleg) ∧
    (csrWrite s .sip v = { s with mip := (s.mip &&& ~~~(s.mideleg &&& 2#64)) ||| (v &&& (s.mideleg &&& 2#64)) } ∧
      csrRead s .sip = s.mip &&& s.mideleg) ∧
    (csrWrite s .mip v = { s with mip := (s.mip &&& ~~~0x222#64) ||| (v &&& 0x222#64) } ∧ csrRead s .mip = s.mip) ∧
    (csrWrite s .mie v = { s with mie := v &&& 0xAAA#64 } ∧ csrRead s .mie = s.mie) ∧
    (csrWrite s .medeleg v = { s with medeleg := v &&& 0xB3FF#64 } ∧ csrRead s .medeleg = s.medeleg) ∧
    (csrWrite s .mideleg v = { s with mideleg := v &&& 0x222#64 } ∧ csrRead s .mideleg = s.mideleg) ∧
    (csrWrite s .mtvec v = { s with mtvec := v &&& ~~~2#64 } ∧ csrWrite s .stvec v = { s with stvec := v &&& ~~~2#64 } ∧
      csrRead s .mtvec = s.mtvec ∧ csrRead s .stvec = s.stvec) ∧
    (csrWrite s .mepc v = { s with mepc := v &&& ~~~1#64 } ∧ csrWrite s .sepc v = { s with sepc := v &&& ~~~1#64 } ∧
      csrRead s .mepc = s.mepc ∧ csrRead s .sepc = s.sepc) ∧
    (csrWrite s .mcause v = { s with mcause := v } ∧ csrWrite s .scause v = { s with scause := v } ∧
      csrRead s .mcause = s.mcause ∧ csrRead s .scause = s.scause) ∧
    (csrWrite s .mtval v = { s with mtval := v } ∧ csrWrite s .stval v = { s with stval := v } ∧
      csrRead s .mtval = s.mtval ∧ csrRead s .stval = s.stval) ∧
    (csrWrite s .mscratch v = { s with mscratch := v } ∧ csrWrite s .sscratch v = { s with sscratch := v } ∧
      csrRead s .mscratch = s.mscratch ∧ csrRead s .sscratch = s.sscratch) ∧
    (csrWrite s .mcounteren v = { s with mcounteren := v &&& 7#64 } ∧ csrWrite s .scounteren v = { s with scounteren := v &&& 7#64 } ∧
      csrRead s .mcounteren = s.mcounteren ∧ csrRead s .scounteren = s.scounteren) ∧
    (csrWrite s .misa v = s ∧ csrWrite s .mcycle v = s ∧ csrWrite s .minstret v = s ∧ csrWrite s .mhpmcounter v = s ∧
      csrWrite s .mhpmevent v = s) ∧
    (csrRead s .misa = 0x800000000014112D#64 ∧ csrRead s .mcycle = s.mcycle ∧ csrRead s .cycle = s.mcycle ∧
      csrRead s .minstret = s.minstret ∧ csrRead s .instret = s.minstret ∧
      csrRead s .time = BitVec.ofNat 64 (s.mcycle.toNat / s.cfg.rtcFreqDiv) ∧ csrRead s .hpmcounter = 0#64 ∧
      csrRead s .mhpmcounter = 0#64 ∧ csrRead s .mhpmevent = 0#64 ∧ csrRead s .mhartid = 0#64 ∧
      csrRead s .mvendorid = s.cfg.mvendorid ∧ csrRead s .marchid = s.cfg.marchid ∧ csrRead s .mimpid = s.cfg.mimpid))

/-- R670, R671, 49_c_compressed R732: the environment call of the mode with trap value 0; a breakpoint with its own address.
-/
def Obligations.CallsAndBreakpoints : Prop :=
  ∀ s : State,
    (IsWord 0x00000073#32 .ecall ∧ IsWord 0x00100073#32 .ebreak ∧ IsHalf 0x9002#16 .cEbreak) ∧
    (s.priv = .user → Traps .ecall s .environmentCallFromUMode 0#64) ∧
    (s.priv = .supervisor → Traps .ecall s .environmentCallFromSMode 0#64) ∧
    (s.priv = .machine → Traps .ecall s .environmentCallFromMMode 0#64) ∧
    Traps .ebreak s .breakpoint s.pc ∧ Traps .cEbreak s .breakpoint s.pc ∧
    ∀ i, i = .ecall ∨ i = .ebreak ∨ i = .cEbreak →
      ∃ t, exec i s = .next t ∧ SameX s t ∧ SameBytes s t ∧ t.minstret = s.minstret ∧ t.ilrsc = none ∧
        (s.medeleg.getLsbD (if i = .ecall then 8 + s.priv.bits.toNat else 3) = false ∨ s.priv = .machine →
          t.mcause = (if i = .ecall then BitVec.ofNat 64 (8 + s.priv.bits.toNat) else 3#64) ∧
          t.mtval = (if i = .ecall then 0#64 else s.pc) ∧ t.priv = .machine ∧ t.mepc = s.pc &&& ~~~1#64) ∧
        (s.medeleg.getLsbD (if i = .ecall then 8 + s.priv.bits.toNat else 3) = true → s.priv ≠ .machine →
          t.scause = (if i = .ecall then BitVec.ofNat 64 (8 + s.priv.bits.toNat) else 3#64) ∧
          t.stval = (if i = .ecall then 0#64 else s.pc) ∧ t.priv = .supervisor ∧ t.sepc = s.pc &&& ~~~1#64)

/-- R843, R845 with R840 and R841: every field a trap into M-mode changes; everything else is unchanged. R842, R845 with
R840 and R841: every field a delegated trap changes; everything else is unchanged. R844: interrupts of a vectored handler go
to `base + 4 * code`, everything else to `base`. An exception is the trap with interrupt bit 0, the code of R810 and the saved
pc `pc` (R840). -/
def Obligations.TrapEntry : Prop :=
  (∀ (s : State) (isInt : Bool) (code : Nat) (epc tval : Word), code < 16 → epc.getLsbD 0 = false →
    (s.priv = .machine ∨ (if isInt then s.mideleg else s.medeleg).getLsbD code = false) →
    let t := s.takeTrap isInt code epc tval
    (∀ k, t.mcause.getLsbD k = if k = 63 then isInt else (BitVec.ofNat 64 code).getLsbD k) ∧ t.mepc = epc ∧ t.mtval = tval ∧
      (∀ k, t.mstatus.getLsbD k = if k = 7 then s.mstatus.getLsbD 3 else if k = 3 then false
        else if k = 11 then decide (s.priv ≠ .user) else if k = 12 then decide (s.priv = .machine) else s.mstatus.getLsbD k) ∧
      t.priv = .machine ∧ t.pc = trapVector s.mtvec t.mcause ∧ t.ilrsc = none ∧
      (s.priv ≠ .machine ∨ s.priv.bits ≠ slice s.mstatus 11 2 → t.tlbRead = [] ∧ t.tlbWrite = [] ∧ t.tlbCode = []) ∧
      t = { s with mcause := t.mcause, mepc := epc, mtval := tval, mstatus := t.mstatus, priv := .machine, pc := t.pc,
                   ilrsc := none, tlbRead := t.tlbRead, tlbWrite := t.tlbWrite, tlbCode := t.tlbCode }) ∧
  (∀ (s : State) (isInt : Bool) (code : Nat) (epc tval : Word), code < 16 → epc.getLsbD 0 = false →
    s.priv ≠ .machine → (if isInt then s.mideleg else s.medeleg).getLsbD code = true →
    let t := s.takeTrap isInt code epc tval
    (∀ k, t.scause.getLsbD k = if k = 63 then isInt else (BitVec.ofNat 64 code).getLsbD k) ∧ t.sepc = epc ∧ t.stval = tval ∧
      (∀ k, t.mstatus.getLsbD k = if k = 5 then s.mstatus.getLsbD 1 else if k = 1 then false
        else if k = 8 then decide (s.priv = .supervisor) else s.mstatus.getLsbD k) ∧
      t.priv = .supervisor ∧ t.pc = trapVector s.stvec t.scause ∧ t.ilrsc = none ∧
      (s.priv = .user → t.tlbRead = [] ∧ t.tlbWrite = [] ∧ t.tlbCode = []) ∧
      t = { s with scause := t.scause, sepc := epc, stval := tval, mstatus := t.mstatus, priv := .supervisor, pc := t.pc,
                   ilrsc := none, tlbRead := t.tlbRead, tlbWrite := t.tlbWrite, tlbCode := t.tlbCode }) ∧
  (∀ (tvec : Word) (code : Nat), code < 16 →
    let base := tvec.toNat / 4 * 4
    trapVector tvec (trapCause false code) = BitVec.ofNat 64 base ∧
      trapVector tvec (trapCause true code) = BitVec.ofNat 64 (base + if tvec.getLsbD 0 then 4 * code else 0)) ∧
  ∀ (s : State) (e : Exc) (tval : Word), ∃ code : Nat, s.takeException e tval = s.takeTrap false code s.pc tval ∧
    (e, code) ∈ ([(.instructionAddressMisaligned, 0), (.instructionAccessFault, 1), (.illegalInstruction, 2),
      (.breakpoint, 3), (.loadAddressMisaligned, 4), (.loadAccessFault, 5), (.storeAmoAddressMisaligned, 6),
      (.storeAmoAccessFault, 7), (.environmentCallFromUMode, 8), (.environmentCallFromSMode, 9),
      (.environmentCallFromMMode, 11), (.instructionPageFault, 12), (.loadPageFault, 13), (.storeAmoPageFault, 15)] :
      List (Exc × Nat))

/-- R672: every field `MRET` changes in M-mode; it is illegal elsewhere. R673: every field `SRET` changes where it is
allowed; it is illegal in U-mode, and in S-mode with `TSR`. -/
def Obligations.TrapReturns : Prop :=
  (IsWord 0x30200073#32 .mret ∧ ∀ s : State, slice s.mstatus 11 2 ≠ 2#2 →
    (s.priv = .machine →
      ∃ t, exec .mret s = .next t ∧ RetiredAt s.mepc s t ∧
        (∀ k, t.mstatus.getLsbD k = if k = 3 then s.mstatus.getLsbD 7 else if k = 7 then true
          else if k = 11 ∨ k = 12 then false else if k = 17 then s.mstatus.getLsbD 17 && decide (slice s.mstatus 11 2 = 3#2)
          else s.mstatus.getLsbD k) ∧
        t.priv.bits = slice s.mstatus 11 2 ∧ (t.priv ≠ s.priv → t.tlbRead = [] ∧ t.tlbWrite = [] ∧ t.tlbCode = []) ∧
        t = { s with pc := s.mepc, minstret := t.minstret, mstatus := t.mstatus, priv := t.priv, tlbRead := t.tlbRead,
                     tlbWrite := t.tlbWrite, tlbCode := t.tlbCode }) ∧
    (s.priv ≠ .machine → Traps .mret s .illegalInstruction 0x30200073#64)) ∧
  (IsWord 0x10200073#32 .sret ∧ ∀ s : State,
    (s.priv = .machine ∨ (s.priv = .supervisor ∧ s.tsr = false) →
      ∃ t, exec .sret s = .next t ∧ RetiredAt s.sepc s t ∧
        (∀ k, t.mstatus.getLsbD k = if k = 1 then s.mstatus.getLsbD 5 else if k = 5 then true
          else if k = 8 ∨ k = 17 then false else s.mstatus.getLsbD k) ∧
        t.priv = (if s.mstatus.getLsbD 8 then .supervisor else .user) ∧
        (t.priv ≠ s.priv → t.tlbRead = [] ∧ t.tlbWrite = [] ∧ t.tlbCode = []) ∧
        t = { s with pc := s.sepc, minstret := t.minstret, mstatus := t.mstatus, priv := t.priv, tlbRead := t.tlbRead,
                     tlbWrite := t.tlbWrite, tlbCode := t.tlbCode }) ∧
    (s.priv = .user ∨ (s.priv = .supervisor ∧ s.tsr = true) → Traps .sret s .illegalInstruction 0x10200073#64))

/-- R821, R822: an interrupt that is taken is pending, enabled and globally enabled for its destination; M-mode interrupts
come before S-mode ones, and within a destination the order is 11, 3, 7, 9, 1, 5. The premise is part of `State.Inv`. -/
def Obligations.InterruptPriority : Prop :=
  ∀ s : State, Within s.mip 0xAAA#64 →
    let toM := fun j : Nat => s.mip.getLsbD j = true ∧ s.mie.getLsbD j = true ∧ s.mideleg.getLsbD j = false ∧
      (s.priv ≠ .machine ∨ s.mstatus.getLsbD 3 = true)
    let toS := fun j : Nat => s.mip.getLsbD j = true ∧ s.mie.getLsbD j = true ∧ s.mideleg.getLsbD j = true ∧
      (s.priv = .user ∨ (s.priv = .supervisor ∧ s.mstatus.getLsbD 1 = true))
    let before := fun j k : Nat => ∃ l m r : List Nat, [11, 3, 7, 9, 1, 5] = l ++ j :: m ++ k :: r
    (∀ i, s.pendingInterrupt = some i ↔
      i ∈ [11, 3, 7, 9, 1, 5] ∧ ((toM i ∧ ∀ j, toM j → j = i ∨ before i j) ∨
        ((∀ j, ¬toM j) ∧ toS i ∧ ∀ j, toS j → j = i ∨ before i j))) ∧
    (s.pendingInterrupt = none ↔ ∀ j, ¬toM j ∧ ¬toS j) ∧
    (∀ i, s.pendingInterrupt = some i → s.interruptCheck = s.takeTrap true i s.pc 0#64) ∧
    (s.pendingInterrupt = none → s.interruptCheck = s)

/-- R860: sampling sets `mip.MTIP` exactly when `mtime >= mtimecmp` and changes nothing else; it never clears the bit. R871,
R872, R800: an idle hart with no enabled interrupt pending only moves `mcycle`; with one pending it wakes and goes on. -/
def Obligations.TimerAndIdle : Prop :=
  (∀ s : State,
    let due := s.mtimecmp.toNat ≤ (BitVec.ofNat 64 (s.mcycle.toNat / s.cfg.rtcFreqDiv)).toNat
    (∀ k, s.sampleTimer.mip.getLsbD k = if k = 7 then s.mip.getLsbD 7 || decide due else s.mip.getLsbD k) ∧
      s.sampleTimer = { s with mip := s.sampleTimer.mip }) ∧
  (∀ s : State, s.hostInputs = [] → s.runStatus = none → s.idle = true →
    let s1 := s.sampleTimer
    let next := s.mtimecmp.toNat * s.cfg.rtcFreqDiv
    (s1.mip &&& s1.mie = 0#64 →
      step s = .next { s1 with mcycle := if s1.mip.getLsbD 7 = false ∧ next < 2 ^ 64 then
                                           BitVec.ofNat 64 (min s.mcycleEnd.toNat next) else s.mcycleEnd }) ∧
    (s1.mip &&& s1.mie ≠ 0#64 → step s = step { s with idle := false }))

/-- R801, R807, R886: a halted or yielded hart, an external request, and a reached deadline stop the loop; nothing changes
then. That a stopped machine answers itself as its next state is the model's choice (entry 6). R93, R801, R883: `iflags.H`
is never cleared, by no instruction and no host action. -/
def Obligations.StoppedHartStays : Prop :=
  (∀ s : State, s.hostInputs = [] →
    (s.halted = true ∨ s.yielded = true ∨ s.extReq = true ∨ s.mcycleEnd.toNat ≤ s.mcycle.toNat → step s = .next s) ∧
    (s.halted = true → s.runStatus = some .halted) ∧
    (s.halted = false → s.yielded = true →
      s.runStatus = some (if slice s.tohost 48 8 = 0#8 then .yieldedAutomatically else .yieldedManually)) ∧
    (s.halted = false → s.yielded = false → s.extReq = true ∨ s.mcycleEnd.toNat ≤ s.mcycle.toNat →
      s.runStatus = some .reachedTargetMcycle)) ∧
  (∀ s t : State, s.halted = true → step s = .next t → t.halted = true)

/-- R805: a step that executes or attempts an instruction adds one to `mcycle`; `minstret` grows by one or not at all. -/
def Obligations.CountersAdvance : Prop :=
  ∀ s t : State, s.hostInputs = [] → s.runStatus = none → (s.idle = true → s.sampleTimer.mip &&& s.sampleTimer.mie ≠ 0#64) →
    step s = .next t → t.mcycle = s.mcycle + 1#64 ∧ (t.minstret = s.minstret ∨ t.minstret = s.minstret + 1#64)

/-- R880 to R885, R823, and the deadline R886: what each action of the host does, and nothing else. The model's choices among
it: the order of the host's turn (log entry 5); that a write of memory empties the TLBs, which 20_memory R264 allows and R885
does not require beyond the entries concerned (entry 7); and what entry 13 names: which bits a CSR write stores, that a write
of an `f` register or of `fcsr` leaves FS, that a write of `pc` clears bit 0, that a reservation of a size other than 4 and 8
is ignored, that a write of `tohost`, `fromhost` or `mtimecmp` stores the value alone, with no command and no change of MTIP,
and that writes to nothing are ignored. -/
def Obligations.HostActions : Prop :=
  ∀ s : State,
    ((s.hostInputs = [] → step s = runLoopStep s) ∧
      ∀ now later, s.hostInputs = now :: later → step s = runLoopStep (now.foldl State.applyHost { s with hostInputs := later })) ∧
    (s.applyHost .requestExternal = { s with extReq := true } ∧ s.applyHost .clearExternal = { s with extReq := false } ∧
      s.applyHost .resume = { s with yielded := false } ∧ ∀ d, s.applyHost (.setDeadline d) = { s with mcycleEnd := d }) ∧
    (∀ meip seip, ∃ m : Word, s.applyHost (.setExternalInterrupt meip seip) = { s with mip := m } ∧
      ∀ k, m.getLsbD k = if k = 11 then meip else if k = 9 then seip else s.mip.getLsbD k) ∧
    ((∀ b rest, s.cfg.interactive = true → s.cfg.iconsole.getLsbD 0 = true → s.fromhostPending = false → s.consoleIn = b :: rest →
        s.applyHost .deliverConsoleByte =
          { s with fromhost := BitVec.ofNat 64 (2 ^ 56 + b.toNat), fromhostPending := true, consoleIn := rest }) ∧
      (s.cfg.interactive = false ∨ s.cfg.iconsole.getLsbD 0 = false ∨ s.fromhostPending = true ∨ s.consoleIn = [] →
        s.applyHost .deliverConsoleByte = s)) ∧
    ((∀ r v, let t := s.applyHost (.writeX r v)
        XBecomes r v s t ∧ t = { s with x := t.x }) ∧
      (∀ r v, let t := s.applyHost (.writeF r v)
        FBecomes r v s t ∧ t = { s with f := t.f }) ∧
      (∀ v, s.applyHost (.writePc v) = { s with pc := BitVec.ofNat 64 (v.toNat / 2 * 2) }) ∧
      (∀ p, s.applyHost (.writePriv p) = { s with priv := p, tlbRead := [], tlbWrite := [], tlbCode := [] }) ∧
      (∀ b, s.applyHost (.writeIdle b) = { s with idle := b } ∧ s.applyHost (.writeYielded b) = { s with yielded := b }) ∧
      s.applyHost .setHalted = { s with halted := true } ∧
      (∀ v, s.applyHost (.writeTohost v) = { s with tohost := v } ∧ s.applyHost (.writeFromhost v) = { s with fromhost := v } ∧
        s.applyHost (.writeMtimecmp v) = { s with mtimecmp := v }) ∧
      (∀ b, s.applyHost (.writeFromhostPending b) = { s with fromhostPending := b }) ∧
      s.applyHost (.writeReservation none) = { s with ilrsc := none } ∧
      ∀ r : Reservation, (r.size = 4 ∨ r.size = 8 → s.applyHost (.writeReservation (some r)) = { s with ilrsc := some r }) ∧
        (r.size ≠ 4 → r.size ≠ 8 → s.applyHost (.writeReservation (some r)) = s)) ∧
    ((∀ addr v, Csr.ofAddr addr = none → s.applyHost (.writeCsr addr v) = s) ∧
      ∀ addr c v, Csr.ofAddr addr = some c →
        let t := s.applyHost (.writeCsr addr v)
        t.tlbRead = [] ∧ t.tlbWrite = [] ∧ t.tlbCode = [] ∧
        (c = .mcycle → t = { s.flushTlbs with mcycle := v }) ∧ (c = .minstret → t = { s.flushTlbs with minstret := v }) ∧
        (c = .mip → t = { s.flushTlbs with mip := v &&& 0xAAA#64 }) ∧
        (c = .fflags ∨ c = .frm ∨ c = .fcsr → t = { s.flushTlbs with fcsr := (csrWrite s c v).fcsr }) ∧
        (c ∉ [.mcycle, .minstret, .mip, .fflags, .frm, .fcsr] → t = (csrWrite s c v).flushTlbs)) ∧
    ∀ (pa : Word) (bytes : List Byte), s.mem.wf = true →
      let t := s.applyHost (.writeMemory pa bytes)
      (∀ e, findPma s.cfg.pma pa.toNat bytes.length = some e → e.kind = .memory →
        (∀ k b, bytes[k]? = some b → t.mem.byte (pa.toNat + k) = b) ∧ SameOutside s t pa.toNat bytes.length ∧
        t = { s with mem := t.mem, ilrsc := none, tlbRead := [], tlbWrite := [], tlbCode := [] }) ∧
      ((∀ e, findPma s.cfg.pma pa.toNat bytes.length = some e → e.kind ≠ .memory) → t = s)

/-- R804, R805, over all instructions: one that does not count as retired took an exception in the state it found, or in the
state that the translation of its data access left, and so wrote no integer or floating-point register, no flag, no device
register, no other CSR, no memory but page-table bits, and cleared the reservation; one that counts leaves the trap registers
of both modes alone unless it is a CSR instruction. -/
def Obligations.RetireOrTrap : Prop :=
  ∀ (i : Instr) (s t : State), exec i s = .next t →
    (t.minstret = s.minstret ∨ t.minstret = s.minstret + 1#64) ∧
    (t.minstret = s.minstret →
      AbandonedBy i s t ∧ SameDevices s t ∧
      t.x = s.x ∧ t.f = s.f ∧ t.fcsr = s.fcsr ∧ t.ilrsc = none ∧ t.mip = s.mip ∧ t.mie = s.mie ∧ t.satp = s.satp ∧
        t.medeleg = s.medeleg ∧ t.mideleg = s.mideleg ∧ t.mtvec = s.mtvec ∧ t.stvec = s.stvec ∧ t.mcounteren = s.mcounteren ∧
        t.scounteren = s.scounteren ∧ t.mscratch = s.mscratch ∧ t.sscratch = s.sscratch ∧ t.mcycle = s.mcycle ∧
        t.idle = s.idle ∧ t.extReq = s.extReq ∧ t.consoleIn = s.consoleIn ∧ t.mcycleEnd = s.mcycleEnd ∧
        t.hostInputs = s.hostInputs ∧ t.cfg = s.cfg ∧ (accessOf i s = none → t.mem = s.mem)) ∧
    (t.minstret = s.minstret + 1#64 → ¬isCsr i →
      t.mcause = s.mcause ∧ t.mepc = s.mepc ∧ t.mtval = s.mtval ∧ t.scause = s.scause ∧ t.sepc = s.sepc ∧ t.stval = s.stval)

/-- R850, R851, over all instructions: an instruction executed in U-mode that stays in U-mode has changed no machine or
supervisor register but `mip` (a store to the CLINT, R859 to R862) and `minstret` (R805), and of `mstatus` only FS; only a
trap leaves U-mode. -/
def Obligations.UserModeIsConfined : Prop :=
  ∀ (i : Instr) (s t : State), s.priv = .user → exec i s = .next t →
    (t.priv = .user →
      t.medeleg = s.medeleg ∧ t.mideleg = s.mideleg ∧ t.mie = s.mie ∧ t.mtvec = s.mtvec ∧ t.mcounteren = s.mcounteren ∧
        t.mscratch = s.mscratch ∧ t.mepc = s.mepc ∧ t.mcause = s.mcause ∧ t.mtval = s.mtval ∧ t.stvec = s.stvec ∧
        t.scounteren = s.scounteren ∧ t.sscratch = s.sscratch ∧ t.sepc = s.sepc ∧ t.scause = s.scause ∧ t.stval = s.stval ∧
        t.satp = s.satp ∧ ∀ k, k ≠ 13 → k ≠ 14 → t.mstatus.getLsbD k = s.mstatus.getLsbD k) ∧
    (t.priv ≠ .user → ∃ u e tval, t = State.takeException u e tval ∧ u.priv = .user ∧ u.x = s.x)

/-- R242, R250: in M-mode, or with `satp.MODE` Bare, an address is its own physical address; loads and stores use `MPP`
under `MPRV`. R250, R260, R261: after a successful translation, the same translation hits what it filled, or there was
nothing to fill; a total flush leaves no entry (R262, R263). -/
def Obligations.BareAndTlb : Prop :=
  (∀ (s : State) (va : Word) (acc : Access),
    let eff := if acc ≠ .fetch ∧ s.mstatus.getLsbD 17 = true then s.mpp else s.priv
    (eff = .machine ∨ slice s.satp 60 4 = 0#4 → translate s va acc = .ok va s) ∧ s.effPriv acc = eff) ∧
  ((∀ (s s1 : State) (va pa : Word) (acc : Access), s.bare acc = false → translate s va acc = .ok pa s1 →
      (∃ k e, s1.cfg.pma.findIdx? (fun e => containsRange e (pa.toNat / 4096 * 4096) 4096) = some k ∧ s1.cfg.pma[k]? = some e ∧
        e.kind = .memory ∧ acc.flagOf e = true) →
      translate s1 va acc = .ok pa s1) ∧
    ∀ (s : State) (va : Word) (acc : Access), (s.flushTlbs.tlb acc).hit va = none)

/-- R252: an address whose upper bits do not all equal bit `VA_BITS-1` faults before any page-table entry is read. R254,
R255, R257: a walk that raises raises the page or access fault of its kind, with the virtual address, and changes nothing.
-/
def Obligations.WalkFaults : Prop :=
  (∀ (s : State) (va : Word) (acc : Access) (eff : Priv) (levels : Nat),
    (s.satpMode = 8#4 ∧ levels = 3) ∨ (s.satpMode = 9#4 ∧ levels = 4) ∨ (s.satpMode = 10#4 ∧ levels = 5) →
    (∃ k, 12 + 9 * levels ≤ k ∧ k < 64 ∧ va.getLsbD k ≠ va.getLsbD (11 + 9 * levels)) →
      walk s va acc eff = .raised acc.pageFault va s) ∧
  (∀ (s s1 : State) (va tval : Word) (acc : Access) (eff : Priv) (e : Exc), walk s va acc eff = .raised e tval s1 →
    s1 = s ∧ tval = va ∧ (e = acc.pageFault ∨ e = acc.accessFault))

/-- R252, R254 to R256: a walk that succeeds went from the root table of `satp` through valid pointers, indexed by the `VPN`
fields of the address, to a leaf that permits the access: valid, with the bits the access needs, user pages for U-mode, user
pages never fetched by S-mode and read only under `SUM`, aligned at its level; the physical address is made of that leaf's
PPN and the offset; and the state it leaves differs only in that entry, which gained its A (and D) bits, which may have
broken a reservation. -/
def Obligations.WalkResult : Prop :=
  ∀ (s s1 : State) (va pa : Word) (acc : Access) (eff : Priv), s.mem.wf = true → walk s va acc eff = .ok pa s1 →
    ∃ (i b : Nat) (pte : Word) (e : PmaEntry),
      let a := b + vpn va i * 8
      Descends s va (levelsOf s.satpMode) (s.satpPpn.toNat * 4096) (i + 1) b ∧
      findPma s.cfg.pma a 8 = some e ∧ e.kind = .memory ∧ e.r = true ∧
      BytesAre s a 8 pte.toNat ∧ pte.getLsbD 0 = true ∧ slice pte 54 10 = 0#10 ∧
      (pte.getLsbD 1 = true ∨ pte.getLsbD 3 = true) ∧ (pte.getLsbD 2 = true → pte.getLsbD 1 = true) ∧
      (acc = .fetch → pte.getLsbD 3 = true ∧ ¬(eff = .supervisor ∧ pte.getLsbD 4 = true)) ∧
      (acc = .load → pte.getLsbD 1 = true ∨ (pte.getLsbD 3 = true ∧ s.mstatus.getLsbD 19 = true)) ∧
      (acc = .store → pte.getLsbD 2 = true) ∧
      (eff = .user → pte.getLsbD 4 = true) ∧
      (eff = .supervisor → pte.getLsbD 4 = true → s.mstatus.getLsbD 18 = true) ∧
      ptePpn pte % 2 ^ (9 * i) = 0 ∧ pa = leafAddress pte va i ∧
      pa.toNat = ptePpn pte / 2 ^ (9 * i) * 2 ^ (12 + 9 * i) + va.toNat % 2 ^ (12 + 9 * i) ∧
      pa.toNat % 4096 = va.toNat % 4096 ∧ pa.toNat < 2 ^ 56 ∧
      BytesAre s1 a 8 (pte ||| (if acc = .store then 0xC0#64 else 0x40#64)).toNat ∧ SameOutside s s1 a 8 ∧
      s1 = { s with mem := s1.mem, ilrsc := s1.ilrsc, tlbRead := s1.tlbRead, tlbWrite := s1.tlbWrite, tlbCode := s1.tlbCode } ∧
      (s1.ilrsc = s.ilrsc ∨ s1.ilrsc = none)

/-- R701, R708 to R716, R726 with the constraints of their rows: encoding, result, length 2, and nothing else changes. `r`
is the register that the three-bit field `q` names. -/
def Obligations.CompressedImmediates : Prop :=
  ∀ (s : State) (q : CReg) (rd : Reg) (z : BitVec 8) (imm : BitVec 6),
    let r : Reg := 1#2 ++ q
    let spn : BitVec 16 := 0#3 ++ slice z 2 2 ++ slice z 4 4 ++ slice z 0 1 ++ slice z 1 1 ++ q ++ 0#2
    let sp16 : BitVec 16 := 3#3 ++ slice imm 5 1 ++ 2#5 ++ slice imm 0 1 ++ slice imm 2 1 ++ slice imm 3 2 ++ slice imm 1 1 ++ 1#2
    let gets := fun (i : Instr) (w : BitVec 16) (rd : Reg) (v : Word) => IsHalf w i ∧ WritesX i s 2#64 rd v
    (z ≠ 0#8 → gets (.cAddi4spn q z) spn r (BitVec.ofNat 64 ((s.getX 2#5).toNat + 4 * z.toNat))) ∧
    (z = 0#8 → decode (.half spn) = none) ∧
    (IsHalf (0#3 ++ slice imm 5 1 ++ 0#5 ++ slice imm 0 5 ++ 1#2) (.cNop imm) ∧ GoesTo (.cNop imm) s (s.pc + 2#64)) ∧
    (rd ≠ 0#5 → gets (.cAddi rd imm) (0#3 ++ slice imm 5 1 ++ rd ++ slice imm 0 5 ++ 1#2) rd (BitVec.ofInt 64 ((s.getX rd).toInt + imm.toInt))) ∧
    (rd ≠ 0#5 → gets (.cAddiw rd imm) (1#3 ++ slice imm 5 1 ++ rd ++ slice imm 0 5 ++ 1#2) rd
      ((BitVec.ofInt 32 ((s.getX rd).toInt + imm.toInt)).signExtend 64)) ∧
    (rd = 0#5 → decode (.half (1#3 ++ slice imm 5 1 ++ rd ++ slice imm 0 5 ++ 1#2)) = none) ∧
    gets (.cLi rd imm) (2#3 ++ slice imm 5 1 ++ rd ++ slice imm 0 5 ++ 1#2) rd (imm.signExtend 64) ∧
    (imm ≠ 0#6 → gets (.cAddi16sp imm) sp16 2#5 (BitVec.ofInt 64 ((s.getX 2#5).toInt + 16 * imm.toInt))) ∧
    (imm = 0#6 → decode (.half sp16) = none) ∧
    (rd ≠ 2#5 → imm ≠ 0#6 → gets (.cLui rd imm) (3#3 ++ slice imm 5 1 ++ rd ++ slice imm 0 5 ++ 1#2) rd ((imm ++ 0#12).signExtend 64)) ∧
    (rd ≠ 2#5 → imm = 0#6 → decode (.half (3#3 ++ slice imm 5 1 ++ rd ++ slice imm 0 5 ++ 1#2)) = none) ∧
    gets (.cSrli q imm) (4#3 ++ slice imm 5 1 ++ 0#2 ++ q ++ slice imm 0 5 ++ 1#2) r (BitVec.ofNat 64 ((s.getX r).toNat / 2 ^ imm.toNat)) ∧
    gets (.cSrai q imm) (4#3 ++ slice imm 5 1 ++ 1#2 ++ q ++ slice imm 0 5 ++ 1#2) r (BitVec.ofInt 64 ((s.getX r).toInt / 2 ^ imm.toNat)) ∧
    gets (.cAndi q imm) (4#3 ++ slice imm 5 1 ++ 2#2 ++ q ++ slice imm 0 5 ++ 1#2) r (s.getX r &&& imm.signExtend 64) ∧
    gets (.cSlli rd imm) (0#3 ++ slice imm 5 1 ++ rd ++ slice imm 0 5 ++ 2#2) rd (BitVec.ofNat 64 ((s.getX rd).toNat * 2 ^ imm.toNat))

/-- R717 to R722, R731, R734 with the constraints of their rows: encoding, result, length 2, and nothing else changes. -/
def Obligations.CompressedRegisterForms : Prop :=
  ∀ (s : State) (q p : CReg) (rd rs2 : Reg),
    let a : Word := s.getX (1#2 ++ q)
    let b : Word := s.getX (1#2 ++ p)
    let gets := fun (i : Instr) (w : BitVec 16) (rd : Reg) (v : Word) => IsHalf w i ∧ WritesX i s 2#64 rd v
    gets (.cSub q p) (4#3 ++ 0#1 ++ 3#2 ++ q ++ 0#2 ++ p ++ 1#2) (1#2 ++ q) (BitVec.ofInt 64 (a.toInt - b.toInt)) ∧
    gets (.cXor q p) (4#3 ++ 0#1 ++ 3#2 ++ q ++ 1#2 ++ p ++ 1#2) (1#2 ++ q) (a ^^^ b) ∧
    gets (.cOr q p) (4#3 ++ 0#1 ++ 3#2 ++ q ++ 2#2 ++ p ++ 1#2) (1#2 ++ q) (a ||| b) ∧
    gets (.cAnd q p) (4#3 ++ 0#1 ++ 3#2 ++ q ++ 3#2 ++ p ++ 1#2) (1#2 ++ q) (a &&& b) ∧
    gets (.cSubw q p) (4#3 ++ 1#1 ++ 3#2 ++ q ++ 0#2 ++ p ++ 1#2) (1#2 ++ q) ((BitVec.ofInt 32 (a.toInt - b.toInt)).signExtend 64) ∧
    gets (.cAddw q p) (4#3 ++ 1#1 ++ 3#2 ++ q ++ 1#2 ++ p ++ 1#2) (1#2 ++ q) ((BitVec.ofInt 32 (a.toInt + b.toInt)).signExtend 64) ∧
    (rs2 ≠ 0#5 → gets (.cMv rd rs2) (4#3 ++ 0#1 ++ rd ++ rs2 ++ 2#2) rd (s.getX rs2)) ∧
    (rs2 ≠ 0#5 → gets (.cAdd rd rs2) (4#3 ++ 1#1 ++ rd ++ rs2 ++ 2#2) rd
      (BitVec.ofInt 64 ((s.getX rd).toInt + (s.getX rs2).toInt)))

/-- R723 to R725, R730, R733 with the constraints of their rows: encoding, condition, target, the link `pc + 2`, and nothing
else changes. `off` and `imm` hold the offset from its bit 1 on. -/
def Obligations.CompressedJumps : Prop :=
  ∀ (s : State) (q : CReg) (rs1 : Reg) (off : BitVec 11) (imm : BitVec 8),
    let a : Word := s.getX (1#2 ++ q)
    let cb := fun (f3 : BitVec 3) =>
      (f3 ++ slice imm 7 1 ++ slice imm 2 2 ++ q ++ slice imm 5 2 ++ slice imm 0 2 ++ slice imm 4 1 ++ 1#2 : BitVec 16)
    let goes := fun (i : Instr) (taken : Prop) =>
      (taken → GoesTo i s (BitVec.ofInt 64 (s.pc.toInt + 2 * imm.toInt))) ∧ (¬taken → GoesTo i s (s.pc + 2#64))
    let target : Word := BitVec.ofNat 64 ((s.getX rs1).toNat / 2 * 2)
    (IsHalf (5#3 ++ slice off 10 1 ++ slice off 3 1 ++ slice off 7 2 ++ slice off 9 1 ++ slice off 5 1 ++ slice off 6 1 ++
        slice off 0 3 ++ slice off 4 1 ++ 1#2) (.cJ off) ∧
      GoesTo (.cJ off) s (BitVec.ofInt 64 (s.pc.toInt + 2 * off.toInt))) ∧
    (IsHalf (cb 6#3) (.cBeqz q imm) ∧ goes (.cBeqz q imm) (a = 0#64)) ∧
    (IsHalf (cb 7#3) (.cBnez q imm) ∧ goes (.cBnez q imm) (a ≠ 0#64)) ∧
    (rs1 ≠ 0#5 → IsHalf (4#3 ++ 0#1 ++ rs1 ++ 0#5 ++ 2#2) (.cJr rs1) ∧ GoesTo (.cJr rs1) s target) ∧
    (rs1 ≠ 0#5 → IsHalf (4#3 ++ 1#1 ++ rs1 ++ 0#5 ++ 2#2) (.cJalr rs1) ∧
      WritesXAt (.cJalr rs1) s target 1#5 (s.pc + 2#64))

/-- R702 to R704, R727 to R729: encoding and result of the loads where the access reaches memory; the floating-point ones
with the unit on. `q` names the base and `p` the destination; `u` holds the offset without its low zero bits. R705 to R707,
R735 to R737: encoding and effect of the stores where the access reaches memory; the floating-point ones with the unit on.
`q` names the base and `p` the source. -/
def Obligations.CompressedLoadsStores : Prop :=
  (∀ (s s1 : State) (q p : CReg) (rd : Reg) (u : BitVec 5) (w : BitVec 6) (pa : Word) (e : PmaEntry) (v : Nat),
    let base : Word := s.getX (cReg q)
    let sp : Word := s.getX spReg
    let there := fun (va : Word) (n : Nat) => Reaches s va n .load pa e s1 ∧ v < 256 ^ n ∧ BytesAre s1 pa.toNat n v
    ((offW u).toNat = 4 * u.toNat ∧ (offD u).toNat = 8 * u.toNat ∧ (offW w).toNat = 4 * w.toNat ∧ (offD w).toNat = 8 * w.toNat) ∧
    (IsHalf (2#3 ++ slice u 1 3 ++ q ++ slice u 0 1 ++ slice u 4 1 ++ p ++ 0#2) (.cLw p q u) ∧
      (there (base + offW u) 4 → LoadsX (.cLw p q u) s s1 2#64 (1#2 ++ p) ((BitVec.ofNat 32 v).signExtend 64))) ∧
    (IsHalf (3#3 ++ slice u 0 3 ++ q ++ slice u 3 2 ++ p ++ 0#2) (.cLd p q u) ∧
      (there (base + offD u) 8 → LoadsX (.cLd p q u) s s1 2#64 (1#2 ++ p) (BitVec.ofNat 64 v))) ∧
    (IsHalf (1#3 ++ slice u 0 3 ++ q ++ slice u 3 2 ++ p ++ 0#2) (.cFld p q u) ∧
      (s.fs ≠ 0#2 → there (base + offD u) 8 → LoadsF (.cFld p q u) s s1 2#64 (1#2 ++ p) (BitVec.ofNat 64 v))) ∧
    (rd ≠ 0#5 → IsHalf (2#3 ++ slice w 3 1 ++ rd ++ slice w 0 3 ++ slice w 4 2 ++ 2#2) (.cLwsp rd w) ∧
      (there (sp + offW w) 4 → LoadsX (.cLwsp rd w) s s1 2#64 rd ((BitVec.ofNat 32 v).signExtend 64))) ∧
    (rd ≠ 0#5 → IsHalf (3#3 ++ slice w 2 1 ++ rd ++ slice w 0 2 ++ slice w 3 3 ++ 2#2) (.cLdsp rd w) ∧
      (there (sp + offD w) 8 → LoadsX (.cLdsp rd w) s s1 2#64 rd (BitVec.ofNat 64 v))) ∧
    (IsHalf (1#3 ++ slice w 2 1 ++ rd ++ slice w 0 2 ++ slice w 3 3 ++ 2#2) (.cFldsp rd w) ∧
      (s.fs ≠ 0#2 → there (sp + offD w) 8 → LoadsF (.cFldsp rd w) s s1 2#64 rd (BitVec.ofNat 64 v)))) ∧
  (∀ (s s1 : State) (q p : CReg) (rs2 : Reg) (u : BitVec 5) (w : BitVec 6) (pa : Word) (e : PmaEntry), s.mem.wf = true →
    let base : Word := s.getX (cReg q)
    let sp : Word := s.getX spReg
    let there := fun (va : Word) (n : Nat) => Reaches s va n .store pa e s1
    (IsHalf (6#3 ++ slice u 1 3 ++ q ++ slice u 0 1 ++ slice u 4 1 ++ p ++ 0#2) (.cSw q p u) ∧
      (there (base + offW u) 4 → Stores (.cSw q p u) s s1 2#64 pa.toNat 4 (s.getX (1#2 ++ p)).toNat)) ∧
    (IsHalf (7#3 ++ slice u 0 3 ++ q ++ slice u 3 2 ++ p ++ 0#2) (.cSd q p u) ∧
      (there (base + offD u) 8 → Stores (.cSd q p u) s s1 2#64 pa.toNat 8 (s.getX (1#2 ++ p)).toNat)) ∧
    (IsHalf (5#3 ++ slice u 0 3 ++ q ++ slice u 3 2 ++ p ++ 0#2) (.cFsd q p u) ∧
      (s.fs ≠ 0#2 → there (base + offD u) 8 → Stores (.cFsd q p u) s s1 2#64 pa.toNat 8 (s.getF (1#2 ++ p)).toNat)) ∧
    (IsHalf (6#3 ++ slice w 0 4 ++ slice w 4 2 ++ rs2 ++ 2#2) (.cSwsp rs2 w) ∧
      (there (sp + offW w) 4 → Stores (.cSwsp rs2 w) s s1 2#64 pa.toNat 4 (s.getX rs2).toNat)) ∧
    (IsHalf (7#3 ++ slice w 0 3 ++ slice w 3 3 ++ rs2 ++ 2#2) (.cSdsp rs2 w) ∧
      (there (sp + offD w) 8 → Stores (.cSdsp rs2 w) s s1 2#64 pa.toNat 8 (s.getX rs2).toNat)) ∧
    (IsHalf (5#3 ++ slice w 0 3 ++ slice w 3 3 ++ rs2 ++ 2#2) (.cFsdsp rs2 w) ∧
      (s.fs ≠ 0#2 → there (sp + offD w) 8 → Stores (.cFsdsp rs2 w) s s1 2#64 pa.toNat 8 (s.getF rs2).toNat)))
end

