-- ==== Sys2Proof/Laws/Memory.lean ====
section
/-! SUPPORT. Reading after writing, and the canonical form: every memory operation keeps it. -/

namespace Sys2Proof.Machine

open Sys2Proof

theorem Memory.wfFrom_mono {lo lo' : Nat} (h : lo' ≤ lo) {m : Memory} (hm : m.wfFrom lo = true) : m.wfFrom lo' = true := by
  cases m with
  | nil => rfl
  | cons c rest =>
    obtain ⟨a, b⟩ := c
    simp only [Memory.wfFrom, Bool.and_eq_true, decide_eq_true_eq] at hm ⊢
    exact ⟨⟨Nat.le_trans h hm.1.1, hm.1.2⟩, hm.2⟩

/-- Below the bound nothing is listed. -/
theorem Memory.byte_below {m : Memory} : ∀ {lo a : Nat}, m.wfFrom lo = true → a < lo → m.byte a = Memory.background := by
  induction m with
  | nil => intros; rfl
  | cons c rest ih =>
    obtain ⟨x, b⟩ := c
    intro lo a hm ha
    simp only [Memory.wfFrom, Bool.and_eq_true, decide_eq_true_eq] at hm
    have hne : a ≠ x := by omega
    rw [Memory.byte, if_neg hne]
    exact ih hm.2 (by omega)

theorem Memory.setByte_wfFrom {m : Memory} :
    ∀ {lo a : Nat} (v : Byte), m.wfFrom lo = true → lo ≤ a → (m.setByte a v).wfFrom lo = true := by
  induction m with
  | nil =>
    intro lo a v _ ha
    by_cases hv : v = Memory.background <;> simp [Memory.setByte, Memory.wfFrom, hv, ha]
  | cons c rest ih =>
    obtain ⟨x, b⟩ := c
    intro lo a v hm ha
    have hm' := hm
    simp only [Memory.wfFrom, Bool.and_eq_true, decide_eq_true_eq] at hm
    unfold Memory.setByte
    split
    · next hax =>
      split
      · exact hm'
      · next hv =>
        simp only [Memory.wfFrom, Bool.and_eq_true, decide_eq_true_eq]
        exact ⟨⟨ha, by simpa using hv⟩, ⟨by omega, hm.1.2⟩, hm.2⟩
    · split
      · next hax =>
        subst hax
        split
        · exact Memory.wfFrom_mono (by omega) hm.2
        · next hv =>
          simp only [Memory.wfFrom, Bool.and_eq_true, decide_eq_true_eq]
          exact ⟨⟨ha, by simpa using hv⟩, hm.2⟩
      · simp only [Memory.wfFrom, Bool.and_eq_true, decide_eq_true_eq]
        exact ⟨hm.1, ih v hm.2 (by omega)⟩

/-- A read after a write of one byte. -/
theorem Memory.byte_setByte_from {m : Memory} :
    ∀ {lo a : Nat} (v : Byte) (q : Nat), m.wfFrom lo = true → (m.setByte a v).byte q = if q = a then v else m.byte q := by
  induction m with
  | nil =>
    intro lo a v q _
    by_cases hv : v = Memory.background
    · by_cases hq : q = a <;> simp [Memory.setByte, Memory.byte, hv, hq]
    · by_cases hq : q = a
      · simp [Memory.setByte, Memory.byte, hv, hq]
      · simp [Memory.setByte, Memory.byte, hv, hq]
  | cons c rest ih =>
    obtain ⟨x, b⟩ := c
    intro lo a v q hm
    simp only [Memory.wfFrom, Bool.and_eq_true, decide_eq_true_eq] at hm
    unfold Memory.setByte
    split
    · next hax =>
      split
      · next hv =>
        by_cases hq : q = a
        · subst hq
          have h1 : ¬q = x := by omega
          rw [if_pos rfl, Memory.byte, if_neg h1, Memory.byte_below hm.2 (by omega), hv]
        · rw [if_neg hq]
      · by_cases hq : q = a
        · simp [Memory.byte, hq]
        · simp [Memory.byte, hq]
    · split
      · next hax =>
        subst hax
        split
        · next hv =>
          by_cases hq : q = a
          · subst hq
            rw [if_pos rfl, Memory.byte_below hm.2 (by omega), hv]
          · simp [Memory.byte, hq]
        · by_cases hq : q = a
          · simp [Memory.byte, hq]
          · simp [Memory.byte, hq]
      · next h1 h2 =>
        by_cases hx : q = x
        · subst hx
          have : ¬q = a := fun h => h2 h.symm
          simp [Memory.byte, this]
        · rw [Memory.byte, if_neg hx, ih v q hm.2, Memory.byte, if_neg hx]

theorem Memory.byte_setByte {m : Memory} (hm : m.wf = true) (a : Nat) (v : Byte) (q : Nat) :
    (m.setByte a v).byte q = if q = a then v else m.byte q := Memory.byte_setByte_from v q hm

/-- Writing a byte keeps the canonical form. -/
theorem Memory.setByte_wf {m : Memory} (hm : m.wf = true) (a : Nat) (v : Byte) : (m.setByte a v).wf = true :=
  Memory.setByte_wfFrom v hm (Nat.zero_le a)

/-- Storing keeps the canonical form. -/
theorem Memory.store_wf {m : Memory} (hm : m.wf = true) (a n v : Nat) : (m.store a n v).wf = true := by
  induction n generalizing m a v with
  | zero => exact hm
  | succ n ih => exact ih (Memory.setByte_wf hm a _) (a + 1) (v / 256)

/-- Storing a string of bytes keeps the canonical form. -/
theorem Memory.storeBytes_wf {m : Memory} (hm : m.wf = true) (a : Nat) (bs : List Byte) : (m.storeBytes a bs).wf = true := by
  induction bs generalizing m a with
  | nil => exact hm
  | cons b bs ih => exact ih (Memory.setByte_wf hm a b) (a + 1)

/-- A byte after a string of bytes was stored: the string's own byte inside, the old byte outside. -/
theorem Memory.byte_storeBytes {m : Memory} (hm : m.wf = true) (a : Nat) (bs : List Byte) (q : Nat) :
    (m.storeBytes a bs).byte q = if a ≤ q ∧ q < a + bs.length then bs.getD (q - a) 0#8 else m.byte q := by
  induction bs generalizing m a with
  | nil => rw [if_neg (by simp)]; rfl
  | cons b bs ih =>
    rw [Memory.storeBytes, ih (Memory.setByte_wf hm a b), Memory.byte_setByte hm]
    simp only [List.length_cons]
    by_cases h0 : q = a
    · subst h0; rw [if_neg (by omega), if_pos rfl, if_pos (by omega)]; simp
    · by_cases h1 : a + 1 ≤ q ∧ q < a + 1 + bs.length
      · rw [if_pos h1, if_pos (by omega), show q - a = (q - (a + 1)) + 1 by omega, List.getD_cons_succ]
      · rw [if_neg h1, if_neg h0, if_neg (by omega)]

/-- A byte after a store: byte `q - a` of the value inside the stored bytes, the old byte outside. -/
theorem Memory.byte_store {m : Memory} (hm : m.wf = true) (a n v q : Nat) :
    (m.store a n v).byte q =
      if a ≤ q ∧ q < a + n then BitVec.ofNat 8 (v / 256 ^ (q - a)) else m.byte q := by
  induction n generalizing m a v with
  | zero =>
    have : ¬(a ≤ q ∧ q < a + 0) := by omega
    rw [if_neg this]; rfl
  | succ n ih =>
    rw [Memory.store, ih (Memory.setByte_wf hm a _), Memory.byte_setByte hm]
    by_cases h1 : a + 1 ≤ q ∧ q < a + 1 + n
    · rw [if_pos h1, if_pos (by omega)]
      have : q - a = (q - (a + 1)) + 1 := by omega
      rw [this, Nat.pow_succ, Nat.mul_comm, Nat.div_div_eq_div_mul]
    · rw [if_neg h1]
      by_cases h2 : q = a
      · subst h2
        rw [if_pos rfl, if_pos (by omega)]; simp
      · rw [if_neg h2, if_neg (by omega)]

/-- The bytes of a loaded number. -/
theorem Memory.load_digit (m : Memory) (a n k : Nat) (hk : k < n) :
    m.load a n / 256 ^ k % 256 = (m.byte (a + k)).toNat := by
  induction n generalizing a k with
  | zero => omega
  | succ n ih =>
    have hb : (m.byte a).toNat < 256 := (m.byte a).isLt
    cases k with
    | zero => simp only [Memory.load, Nat.pow_zero, Nat.div_one, Nat.add_zero]; omega
    | succ k =>
      have h : m.load a (n + 1) / 256 ^ (k + 1) = m.load (a + 1) n / 256 ^ k := by
        rw [Nat.pow_succ, Nat.mul_comm, ← Nat.div_div_eq_div_mul, Memory.load]
        congr 1; omega
      rw [h, ih (a + 1) k (by omega)]
      congr 2; omega

/-- A loaded number fits its bytes. -/
theorem Memory.load_lt (m : Memory) (a n : Nat) : m.load a n < 256 ^ n := by
  induction n generalizing a with
  | zero => simp [Memory.load]
  | succ n ih =>
    have hb : (m.byte a).toNat < 256 := (m.byte a).isLt
    have := ih (a + 1)
    rw [Memory.load, Nat.pow_succ]; omega

/-- Loading reads only the loaded bytes. -/
theorem Memory.load_congr {m m' : Memory} {a n : Nat} (h : ∀ k, k < n → m'.byte (a + k) = m.byte (a + k)) :
    m'.load a n = m.load a n := by
  induction n generalizing a with
  | zero => rfl
  | succ n ih =>
    have h0 : m'.byte a = m.byte a := by simpa using h 0 (by omega)
    rw [Memory.load, Memory.load, h0, ih]
    intro k hk
    have := h (k + 1) (by omega)
    rwa [show a + 1 + k = a + (k + 1) by omega]

/-- A load of what a store of the same bytes has just written. -/
theorem Memory.load_store {m : Memory} (hm : m.wf = true) (a n v : Nat) : (m.store a n v).load a n = v % 256 ^ n := by
  induction n generalizing m a v with
  | zero => simp [Memory.load, Nat.mod_one]
  | succ n ih =>
    have hw := Memory.setByte_wf hm a (BitVec.ofNat 8 v)
    rw [Memory.load, Memory.byte_store hm, if_pos ⟨Nat.le_refl a, by omega⟩]
    rw [show m.store a (n + 1) v = (m.setByte a (BitVec.ofNat 8 v)).store (a + 1) n (v / 256) from rfl, ih hw]
    rw [Nat.sub_self, Nat.pow_zero, Nat.div_one, BitVec.toNat_ofNat, Nat.pow_succ 256 n, Nat.mul_comm (256 ^ n) 256, Nat.mod_mul]

end Sys2Proof.Machine
end

