-- ==== Sys2Proof/Laws/State.lean ====
section
/-! SUPPORT. What each update of the state leaves alone, field by field, so that no later proof unfolds an update. -/

namespace Sys2Proof.Machine

open Sys2Proof

/-! ## `setX`: only `x` may differ -/

@[simp] theorem setX_f (s : State) (r : Reg) (v : Word) : (s.setX r v).f = s.f := by unfold State.setX; split <;> rfl
@[simp] theorem setX_pc (s : State) (r : Reg) (v : Word) : (s.setX r v).pc = s.pc := by unfold State.setX; split <;> rfl
@[simp] theorem setX_priv (s : State) (r : Reg) (v : Word) : (s.setX r v).priv = s.priv := by unfold State.setX; split <;> rfl
@[simp] theorem setX_idle (s : State) (r : Reg) (v : Word) : (s.setX r v).idle = s.idle := by unfold State.setX; split <;> rfl
@[simp] theorem setX_halted (s : State) (r : Reg) (v : Word) : (s.setX r v).halted = s.halted := by unfold State.setX; split <;> rfl
@[simp] theorem setX_yielded (s : State) (r : Reg) (v : Word) : (s.setX r v).yielded = s.yielded := by unfold State.setX; split <;> rfl
@[simp] theorem setX_extReq (s : State) (r : Reg) (v : Word) : (s.setX r v).extReq = s.extReq := by unfold State.setX; split <;> rfl
@[simp] theorem setX_fcsr (s : State) (r : Reg) (v : Word) : (s.setX r v).fcsr = s.fcsr := by unfold State.setX; split <;> rfl
@[simp] theorem setX_mstatus (s : State) (r : Reg) (v : Word) : (s.setX r v).mstatus = s.mstatus := by unfold State.setX; split <;> rfl
@[simp] theorem setX_medeleg (s : State) (r : Reg) (v : Word) : (s.setX r v).medeleg = s.medeleg := by unfold State.setX; split <;> rfl
@[simp] theorem setX_mideleg (s : State) (r : Reg) (v : Word) : (s.setX r v).mideleg = s.mideleg := by unfold State.setX; split <;> rfl
@[simp] theorem setX_mie (s : State) (r : Reg) (v : Word) : (s.setX r v).mie = s.mie := by unfold State.setX; split <;> rfl
@[simp] theorem setX_mip (s : State) (r : Reg) (v : Word) : (s.setX r v).mip = s.mip := by unfold State.setX; split <;> rfl
@[simp] theorem setX_mtvec (s : State) (r : Reg) (v : Word) : (s.setX r v).mtvec = s.mtvec := by unfold State.setX; split <;> rfl
@[simp] theorem setX_mcounteren (s : State) (r : Reg) (v : Word) : (s.setX r v).mcounteren = s.mcounteren := by unfold State.setX; split <;> rfl
@[simp] theorem setX_mscratch (s : State) (r : Reg) (v : Word) : (s.setX r v).mscratch = s.mscratch := by unfold State.setX; split <;> rfl
@[simp] theorem setX_mepc (s : State) (r : Reg) (v : Word) : (s.setX r v).mepc = s.mepc := by unfold State.setX; split <;> rfl
@[simp] theorem setX_mcause (s : State) (r : Reg) (v : Word) : (s.setX r v).mcause = s.mcause := by unfold State.setX; split <;> rfl
@[simp] theorem setX_mtval (s : State) (r : Reg) (v : Word) : (s.setX r v).mtval = s.mtval := by unfold State.setX; split <;> rfl
@[simp] theorem setX_stvec (s : State) (r : Reg) (v : Word) : (s.setX r v).stvec = s.stvec := by unfold State.setX; split <;> rfl
@[simp] theorem setX_scounteren (s : State) (r : Reg) (v : Word) : (s.setX r v).scounteren = s.scounteren := by unfold State.setX; split <;> rfl
@[simp] theorem setX_sscratch (s : State) (r : Reg) (v : Word) : (s.setX r v).sscratch = s.sscratch := by unfold State.setX; split <;> rfl
@[simp] theorem setX_sepc (s : State) (r : Reg) (v : Word) : (s.setX r v).sepc = s.sepc := by unfold State.setX; split <;> rfl
@[simp] theorem setX_scause (s : State) (r : Reg) (v : Word) : (s.setX r v).scause = s.scause := by unfold State.setX; split <;> rfl
@[simp] theorem setX_stval (s : State) (r : Reg) (v : Word) : (s.setX r v).stval = s.stval := by unfold State.setX; split <;> rfl
@[simp] theorem setX_satp (s : State) (r : Reg) (v : Word) : (s.setX r v).satp = s.satp := by unfold State.setX; split <;> rfl
@[simp] theorem setX_mcycle (s : State) (r : Reg) (v : Word) : (s.setX r v).mcycle = s.mcycle := by unfold State.setX; split <;> rfl
@[simp] theorem setX_minstret (s : State) (r : Reg) (v : Word) : (s.setX r v).minstret = s.minstret := by unfold State.setX; split <;> rfl
@[simp] theorem setX_ilrsc (s : State) (r : Reg) (v : Word) : (s.setX r v).ilrsc = s.ilrsc := by unfold State.setX; split <;> rfl
@[simp] theorem setX_mtimecmp (s : State) (r : Reg) (v : Word) : (s.setX r v).mtimecmp = s.mtimecmp := by unfold State.setX; split <;> rfl
@[simp] theorem setX_tohost (s : State) (r : Reg) (v : Word) : (s.setX r v).tohost = s.tohost := by unfold State.setX; split <;> rfl
@[simp] theorem setX_fromhost (s : State) (r : Reg) (v : Word) : (s.setX r v).fromhost = s.fromhost := by unfold State.setX; split <;> rfl
@[simp] theorem setX_fromhostPending (s : State) (r : Reg) (v : Word) : (s.setX r v).fromhostPending = s.fromhostPending := by unfold State.setX; split <;> rfl
@[simp] theorem setX_consoleOut (s : State) (r : Reg) (v : Word) : (s.setX r v).consoleOut = s.consoleOut := by unfold State.setX; split <;> rfl
@[simp] theorem setX_consoleIn (s : State) (r : Reg) (v : Word) : (s.setX r v).consoleIn = s.consoleIn := by unfold State.setX; split <;> rfl
@[simp] theorem setX_tlbRead (s : State) (r : Reg) (v : Word) : (s.setX r v).tlbRead = s.tlbRead := by unfold State.setX; split <;> rfl
@[simp] theorem setX_tlbWrite (s : State) (r : Reg) (v : Word) : (s.setX r v).tlbWrite = s.tlbWrite := by unfold State.setX; split <;> rfl
@[simp] theorem setX_tlbCode (s : State) (r : Reg) (v : Word) : (s.setX r v).tlbCode = s.tlbCode := by unfold State.setX; split <;> rfl
@[simp] theorem setX_mem (s : State) (r : Reg) (v : Word) : (s.setX r v).mem = s.mem := by unfold State.setX; split <;> rfl
@[simp] theorem setX_mcycleEnd (s : State) (r : Reg) (v : Word) : (s.setX r v).mcycleEnd = s.mcycleEnd := by unfold State.setX; split <;> rfl
@[simp] theorem setX_hostInputs (s : State) (r : Reg) (v : Word) : (s.setX r v).hostInputs = s.hostInputs := by unfold State.setX; split <;> rfl
@[simp] theorem setX_cfg (s : State) (r : Reg) (v : Word) : (s.setX r v).cfg = s.cfg := by unfold State.setX; split <;> rfl

/-! ## `setF`: only `f` and `mstatus.FS` may differ -/

@[simp] theorem setF_x (s : State) (r : Reg) (v : Word) : (s.setF r v).x = s.x := rfl
@[simp] theorem setF_pc (s : State) (r : Reg) (v : Word) : (s.setF r v).pc = s.pc := rfl
@[simp] theorem setF_priv (s : State) (r : Reg) (v : Word) : (s.setF r v).priv = s.priv := rfl
@[simp] theorem setF_idle (s : State) (r : Reg) (v : Word) : (s.setF r v).idle = s.idle := rfl
@[simp] theorem setF_halted (s : State) (r : Reg) (v : Word) : (s.setF r v).halted = s.halted := rfl
@[simp] theorem setF_yielded (s : State) (r : Reg) (v : Word) : (s.setF r v).yielded = s.yielded := rfl
@[simp] theorem setF_extReq (s : State) (r : Reg) (v : Word) : (s.setF r v).extReq = s.extReq := rfl
@[simp] theorem setF_fcsr (s : State) (r : Reg) (v : Word) : (s.setF r v).fcsr = s.fcsr := rfl
@[simp] theorem setF_medeleg (s : State) (r : Reg) (v : Word) : (s.setF r v).medeleg = s.medeleg := rfl
@[simp] theorem setF_mideleg (s : State) (r : Reg) (v : Word) : (s.setF r v).mideleg = s.mideleg := rfl
@[simp] theorem setF_mie (s : State) (r : Reg) (v : Word) : (s.setF r v).mie = s.mie := rfl
@[simp] theorem setF_mip (s : State) (r : Reg) (v : Word) : (s.setF r v).mip = s.mip := rfl
@[simp] theorem setF_mtvec (s : State) (r : Reg) (v : Word) : (s.setF r v).mtvec = s.mtvec := rfl
@[simp] theorem setF_mcounteren (s : State) (r : Reg) (v : Word) : (s.setF r v).mcounteren = s.mcounteren := rfl
@[simp] theorem setF_mscratch (s : State) (r : Reg) (v : Word) : (s.setF r v).mscratch = s.mscratch := rfl
@[simp] theorem setF_mepc (s : State) (r : Reg) (v : Word) : (s.setF r v).mepc = s.mepc := rfl
@[simp] theorem setF_mcause (s : State) (r : Reg) (v : Word) : (s.setF r v).mcause = s.mcause := rfl
@[simp] theorem setF_mtval (s : State) (r : Reg) (v : Word) : (s.setF r v).mtval = s.mtval := rfl
@[simp] theorem setF_stvec (s : State) (r : Reg) (v : Word) : (s.setF r v).stvec = s.stvec := rfl
@[simp] theorem setF_scounteren (s : State) (r : Reg) (v : Word) : (s.setF r v).scounteren = s.scounteren := rfl
@[simp] theorem setF_sscratch (s : State) (r : Reg) (v : Word) : (s.setF r v).sscratch = s.sscratch := rfl
@[simp] theorem setF_sepc (s : State) (r : Reg) (v : Word) : (s.setF r v).sepc = s.sepc := rfl
@[simp] theorem setF_scause (s : State) (r : Reg) (v : Word) : (s.setF r v).scause = s.scause := rfl
@[simp] theorem setF_stval (s : State) (r : Reg) (v : Word) : (s.setF r v).stval = s.stval := rfl
@[simp] theorem setF_satp (s : State) (r : Reg) (v : Word) : (s.setF r v).satp = s.satp := rfl
@[simp] theorem setF_mcycle (s : State) (r : Reg) (v : Word) : (s.setF r v).mcycle = s.mcycle := rfl
@[simp] theorem setF_minstret (s : State) (r : Reg) (v : Word) : (s.setF r v).minstret = s.minstret := rfl
@[simp] theorem setF_ilrsc (s : State) (r : Reg) (v : Word) : (s.setF r v).ilrsc = s.ilrsc := rfl
@[simp] theorem setF_mtimecmp (s : State) (r : Reg) (v : Word) : (s.setF r v).mtimecmp = s.mtimecmp := rfl
@[simp] theorem setF_tohost (s : State) (r : Reg) (v : Word) : (s.setF r v).tohost = s.tohost := rfl
@[simp] theorem setF_fromhost (s : State) (r : Reg) (v : Word) : (s.setF r v).fromhost = s.fromhost := rfl
@[simp] theorem setF_fromhostPending (s : State) (r : Reg) (v : Word) : (s.setF r v).fromhostPending = s.fromhostPending := rfl
@[simp] theorem setF_consoleOut (s : State) (r : Reg) (v : Word) : (s.setF r v).consoleOut = s.consoleOut := rfl
@[simp] theorem setF_consoleIn (s : State) (r : Reg) (v : Word) : (s.setF r v).consoleIn = s.consoleIn := rfl
@[simp] theorem setF_tlbRead (s : State) (r : Reg) (v : Word) : (s.setF r v).tlbRead = s.tlbRead := rfl
@[simp] theorem setF_tlbWrite (s : State) (r : Reg) (v : Word) : (s.setF r v).tlbWrite = s.tlbWrite := rfl
@[simp] theorem setF_tlbCode (s : State) (r : Reg) (v : Word) : (s.setF r v).tlbCode = s.tlbCode := rfl
@[simp] theorem setF_mem (s : State) (r : Reg) (v : Word) : (s.setF r v).mem = s.mem := rfl
@[simp] theorem setF_mcycleEnd (s : State) (r : Reg) (v : Word) : (s.setF r v).mcycleEnd = s.mcycleEnd := rfl
@[simp] theorem setF_hostInputs (s : State) (r : Reg) (v : Word) : (s.setF r v).hostInputs = s.hostInputs := rfl
@[simp] theorem setF_cfg (s : State) (r : Reg) (v : Word) : (s.setF r v).cfg = s.cfg := rfl

/-! ## `flushTlbs`: only the TLBs may differ -/

@[simp] theorem flushTlbs_x (s : State) : (s.flushTlbs).x = s.x := rfl
@[simp] theorem flushTlbs_f (s : State) : (s.flushTlbs).f = s.f := rfl
@[simp] theorem flushTlbs_pc (s : State) : (s.flushTlbs).pc = s.pc := rfl
@[simp] theorem flushTlbs_priv (s : State) : (s.flushTlbs).priv = s.priv := rfl
@[simp] theorem flushTlbs_idle (s : State) : (s.flushTlbs).idle = s.idle := rfl
@[simp] theorem flushTlbs_halted (s : State) : (s.flushTlbs).halted = s.halted := rfl
@[simp] theorem flushTlbs_yielded (s : State) : (s.flushTlbs).yielded = s.yielded := rfl
@[simp] theorem flushTlbs_extReq (s : State) : (s.flushTlbs).extReq = s.extReq := rfl
@[simp] theorem flushTlbs_fcsr (s : State) : (s.flushTlbs).fcsr = s.fcsr := rfl
@[simp] theorem flushTlbs_mstatus (s : State) : (s.flushTlbs).mstatus = s.mstatus := rfl
@[simp] theorem flushTlbs_medeleg (s : State) : (s.flushTlbs).medeleg = s.medeleg := rfl
@[simp] theorem flushTlbs_mideleg (s : State) : (s.flushTlbs).mideleg = s.mideleg := rfl
@[simp] theorem flushTlbs_mie (s : State) : (s.flushTlbs).mie = s.mie := rfl
@[simp] theorem flushTlbs_mip (s : State) : (s.flushTlbs).mip = s.mip := rfl
@[simp] theorem flushTlbs_mtvec (s : State) : (s.flushTlbs).mtvec = s.mtvec := rfl
@[simp] theorem flushTlbs_mcounteren (s : State) : (s.flushTlbs).mcounteren = s.mcounteren := rfl
@[simp] theorem flushTlbs_mscratch (s : State) : (s.flushTlbs).mscratch = s.mscratch := rfl
@[simp] theorem flushTlbs_mepc (s : State) : (s.flushTlbs).mepc = s.mepc := rfl
@[simp] theorem flushTlbs_mcause (s : State) : (s.flushTlbs).mcause = s.mcause := rfl
@[simp] theorem flushTlbs_mtval (s : State) : (s.flushTlbs).mtval = s.mtval := rfl
@[simp] theorem flushTlbs_stvec (s : State) : (s.flushTlbs).stvec = s.stvec := rfl
@[simp] theorem flushTlbs_scounteren (s : State) : (s.flushTlbs).scounteren = s.scounteren := rfl
@[simp] theorem flushTlbs_sscratch (s : State) : (s.flushTlbs).sscratch = s.sscratch := rfl
@[simp] theorem flushTlbs_sepc (s : State) : (s.flushTlbs).sepc = s.sepc := rfl
@[simp] theorem flushTlbs_scause (s : State) : (s.flushTlbs).scause = s.scause := rfl
@[simp] theorem flushTlbs_stval (s : State) : (s.flushTlbs).stval = s.stval := rfl
@[simp] theorem flushTlbs_satp (s : State) : (s.flushTlbs).satp = s.satp := rfl
@[simp] theorem flushTlbs_mcycle (s : State) : (s.flushTlbs).mcycle = s.mcycle := rfl
@[simp] theorem flushTlbs_minstret (s : State) : (s.flushTlbs).minstret = s.minstret := rfl
@[simp] theorem flushTlbs_ilrsc (s : State) : (s.flushTlbs).ilrsc = s.ilrsc := rfl
@[simp] theorem flushTlbs_mtimecmp (s : State) : (s.flushTlbs).mtimecmp = s.mtimecmp := rfl
@[simp] theorem flushTlbs_tohost (s : State) : (s.flushTlbs).tohost = s.tohost := rfl
@[simp] theorem flushTlbs_fromhost (s : State) : (s.flushTlbs).fromhost = s.fromhost := rfl
@[simp] theorem flushTlbs_fromhostPending (s : State) : (s.flushTlbs).fromhostPending = s.fromhostPending := rfl
@[simp] theorem flushTlbs_consoleOut (s : State) : (s.flushTlbs).consoleOut = s.consoleOut := rfl
@[simp] theorem flushTlbs_consoleIn (s : State) : (s.flushTlbs).consoleIn = s.consoleIn := rfl
@[simp] theorem flushTlbs_mem (s : State) : (s.flushTlbs).mem = s.mem := rfl
@[simp] theorem flushTlbs_mcycleEnd (s : State) : (s.flushTlbs).mcycleEnd = s.mcycleEnd := rfl
@[simp] theorem flushTlbs_hostInputs (s : State) : (s.flushTlbs).hostInputs = s.hostInputs := rfl
@[simp] theorem flushTlbs_cfg (s : State) : (s.flushTlbs).cfg = s.cfg := rfl

/-! ## `withMstatus`: only `mstatus` and the TLBs may differ -/

@[simp] theorem withMstatus_x (s : State) (m : Word) : (s.withMstatus m).x = s.x := by unfold State.withMstatus; split <;> rfl
@[simp] theorem withMstatus_f (s : State) (m : Word) : (s.withMstatus m).f = s.f := by unfold State.withMstatus; split <;> rfl
@[simp] theorem withMstatus_pc (s : State) (m : Word) : (s.withMstatus m).pc = s.pc := by unfold State.withMstatus; split <;> rfl
@[simp] theorem withMstatus_priv (s : State) (m : Word) : (s.withMstatus m).priv = s.priv := by unfold State.withMstatus; split <;> rfl
@[simp] theorem withMstatus_idle (s : State) (m : Word) : (s.withMstatus m).idle = s.idle := by unfold State.withMstatus; split <;> rfl
@[simp] theorem withMstatus_halted (s : State) (m : Word) : (s.withMstatus m).halted = s.halted := by unfold State.withMstatus; split <;> rfl
@[simp] theorem withMstatus_yielded (s : State) (m : Word) : (s.withMstatus m).yielded = s.yielded := by unfold State.withMstatus; split <;> rfl
@[simp] theorem withMstatus_extReq (s : State) (m : Word) : (s.withMstatus m).extReq = s.extReq := by unfold State.withMstatus; split <;> rfl
@[simp] theorem withMstatus_fcsr (s : State) (m : Word) : (s.withMstatus m).fcsr = s.fcsr := by unfold State.withMstatus; split <;> rfl
@[simp] theorem withMstatus_medeleg (s : State) (m : Word) : (s.withMstatus m).medeleg = s.medeleg := by unfold State.withMstatus; split <;> rfl
@[simp] theorem withMstatus_mideleg (s : State) (m : Word) : (s.withMstatus m).mideleg = s.mideleg := by unfold State.withMstatus; split <;> rfl
@[simp] theorem withMstatus_mie (s : State) (m : Word) : (s.withMstatus m).mie = s.mie := by unfold State.withMstatus; split <;> rfl
@[simp] theorem withMstatus_mip (s : State) (m : Word) : (s.withMstatus m).mip = s.mip := by unfold State.withMstatus; split <;> rfl
@[simp] theorem withMstatus_mtvec (s : State) (m : Word) : (s.withMstatus m).mtvec = s.mtvec := by unfold State.withMstatus; split <;> rfl
@[simp] theorem withMstatus_mcounteren (s : State) (m : Word) : (s.withMstatus m).mcounteren = s.mcounteren := by unfold State.withMstatus; split <;> rfl
@[simp] theorem withMstatus_mscratch (s : State) (m : Word) : (s.withMstatus m).mscratch = s.mscratch := by unfold State.withMstatus; split <;> rfl
@[simp] theorem withMstatus_mepc (s : State) (m : Word) : (s.withMstatus m).mepc = s.mepc := by unfold State.withMstatus; split <;> rfl
@[simp] theorem withMstatus_mcause (s : State) (m : Word) : (s.withMstatus m).mcause = s.mcause := by unfold State.withMstatus; split <;> rfl
@[simp] theorem withMstatus_mtval (s : State) (m : Word) : (s.withMstatus m).mtval = s.mtval := by unfold State.withMstatus; split <;> rfl
@[simp] theorem withMstatus_stvec (s : State) (m : Word) : (s.withMstatus m).stvec = s.stvec := by unfold State.withMstatus; split <;> rfl
@[simp] theorem withMstatus_scounteren (s : State) (m : Word) : (s.withMstatus m).scounteren = s.scounteren := by unfold State.withMstatus; split <;> rfl
@[simp] theorem withMstatus_sscratch (s : State) (m : Word) : (s.withMstatus m).sscratch = s.sscratch := by unfold State.withMstatus; split <;> rfl
@[simp] theorem withMstatus_sepc (s : State) (m : Word) : (s.withMstatus m).sepc = s.sepc := by unfold State.withMstatus; split <;> rfl
@[simp] theorem withMstatus_scause (s : State) (m : Word) : (s.withMstatus m).scause = s.scause := by unfold State.withMstatus; split <;> rfl
@[simp] theorem withMstatus_stval (s : State) (m : Word) : (s.withMstatus m).stval = s.stval := by unfold State.withMstatus; split <;> rfl
@[simp] theorem withMstatus_satp (s : State) (m : Word) : (s.withMstatus m).satp = s.satp := by unfold State.withMstatus; split <;> rfl
@[simp] theorem withMstatus_mcycle (s : State) (m : Word) : (s.withMstatus m).mcycle = s.mcycle := by unfold State.withMstatus; split <;> rfl
@[simp] theorem withMstatus_minstret (s : State) (m : Word) : (s.withMstatus m).minstret = s.minstret := by unfold State.withMstatus; split <;> rfl
@[simp] theorem withMstatus_ilrsc (s : State) (m : Word) : (s.withMstatus m).ilrsc = s.ilrsc := by unfold State.withMstatus; split <;> rfl
@[simp] theorem withMstatus_mtimecmp (s : State) (m : Word) : (s.withMstatus m).mtimecmp = s.mtimecmp := by unfold State.withMstatus; split <;> rfl
@[simp] theorem withMstatus_tohost (s : State) (m : Word) : (s.withMstatus m).tohost = s.tohost := by unfold State.withMstatus; split <;> rfl
@[simp] theorem withMstatus_fromhost (s : State) (m : Word) : (s.withMstatus m).fromhost = s.fromhost := by unfold State.withMstatus; split <;> rfl
@[simp] theorem withMstatus_fromhostPending (s : State) (m : Word) : (s.withMstatus m).fromhostPending = s.fromhostPending := by unfold State.withMstatus; split <;> rfl
@[simp] theorem withMstatus_consoleOut (s : State) (m : Word) : (s.withMstatus m).consoleOut = s.consoleOut := by unfold State.withMstatus; split <;> rfl
@[simp] theorem withMstatus_consoleIn (s : State) (m : Word) : (s.withMstatus m).consoleIn = s.consoleIn := by unfold State.withMstatus; split <;> rfl
@[simp] theorem withMstatus_mem (s : State) (m : Word) : (s.withMstatus m).mem = s.mem := by unfold State.withMstatus; split <;> rfl
@[simp] theorem withMstatus_mcycleEnd (s : State) (m : Word) : (s.withMstatus m).mcycleEnd = s.mcycleEnd := by unfold State.withMstatus; split <;> rfl
@[simp] theorem withMstatus_hostInputs (s : State) (m : Word) : (s.withMstatus m).hostInputs = s.hostInputs := by unfold State.withMstatus; split <;> rfl
@[simp] theorem withMstatus_cfg (s : State) (m : Word) : (s.withMstatus m).cfg = s.cfg := by unfold State.withMstatus; split <;> rfl

/-! ## `withPriv`: only `priv` and the TLBs may differ -/

@[simp] theorem withPriv_x (s : State) (p : Priv) : (s.withPriv p).x = s.x := by unfold State.withPriv; split <;> rfl
@[simp] theorem withPriv_f (s : State) (p : Priv) : (s.withPriv p).f = s.f := by unfold State.withPriv; split <;> rfl
@[simp] theorem withPriv_pc (s : State) (p : Priv) : (s.withPriv p).pc = s.pc := by unfold State.withPriv; split <;> rfl
@[simp] theorem withPriv_idle (s : State) (p : Priv) : (s.withPriv p).idle = s.idle := by unfold State.withPriv; split <;> rfl
@[simp] theorem withPriv_halted (s : State) (p : Priv) : (s.withPriv p).halted = s.halted := by unfold State.withPriv; split <;> rfl
@[simp] theorem withPriv_yielded (s : State) (p : Priv) : (s.withPriv p).yielded = s.yielded := by unfold State.withPriv; split <;> rfl
@[simp] theorem withPriv_extReq (s : State) (p : Priv) : (s.withPriv p).extReq = s.extReq := by unfold State.withPriv; split <;> rfl
@[simp] theorem withPriv_fcsr (s : State) (p : Priv) : (s.withPriv p).fcsr = s.fcsr := by unfold State.withPriv; split <;> rfl
@[simp] theorem withPriv_mstatus (s : State) (p : Priv) : (s.withPriv p).mstatus = s.mstatus := by unfold State.withPriv; split <;> rfl
@[simp] theorem withPriv_medeleg (s : State) (p : Priv) : (s.withPriv p).medeleg = s.medeleg := by unfold State.withPriv; split <;> rfl
@[simp] theorem withPriv_mideleg (s : State) (p : Priv) : (s.withPriv p).mideleg = s.mideleg := by unfold State.withPriv; split <;> rfl
@[simp] theorem withPriv_mie (s : State) (p : Priv) : (s.withPriv p).mie = s.mie := by unfold State.withPriv; split <;> rfl
@[simp] theorem withPriv_mip (s : State) (p : Priv) : (s.withPriv p).mip = s.mip := by unfold State.withPriv; split <;> rfl
@[simp] theorem withPriv_mtvec (s : State) (p : Priv) : (s.withPriv p).mtvec = s.mtvec := by unfold State.withPriv; split <;> rfl
@[simp] theorem withPriv_mcounteren (s : State) (p : Priv) : (s.withPriv p).mcounteren = s.mcounteren := by unfold State.withPriv; split <;> rfl
@[simp] theorem withPriv_mscratch (s : State) (p : Priv) : (s.withPriv p).mscratch = s.mscratch := by unfold State.withPriv; split <;> rfl
@[simp] theorem withPriv_mepc (s : State) (p : Priv) : (s.withPriv p).mepc = s.mepc := by unfold State.withPriv; split <;> rfl
@[simp] theorem withPriv_mcause (s : State) (p : Priv) : (s.withPriv p).mcause = s.mcause := by unfold State.withPriv; split <;> rfl
@[simp] theorem withPriv_mtval (s : State) (p : Priv) : (s.withPriv p).mtval = s.mtval := by unfold State.withPriv; split <;> rfl
@[simp] theorem withPriv_stvec (s : State) (p : Priv) : (s.withPriv p).stvec = s.stvec := by unfold State.withPriv; split <;> rfl
@[simp] theorem withPriv_scounteren (s : State) (p : Priv) : (s.withPriv p).scounteren = s.scounteren := by unfold State.withPriv; split <;> rfl
@[simp] theorem withPriv_sscratch (s : State) (p : Priv) : (s.withPriv p).sscratch = s.sscratch := by unfold State.withPriv; split <;> rfl
@[simp] theorem withPriv_sepc (s : State) (p : Priv) : (s.withPriv p).sepc = s.sepc := by unfold State.withPriv; split <;> rfl
@[simp] theorem withPriv_scause (s : State) (p : Priv) : (s.withPriv p).scause = s.scause := by unfold State.withPriv; split <;> rfl
@[simp] theorem withPriv_stval (s : State) (p : Priv) : (s.withPriv p).stval = s.stval := by unfold State.withPriv; split <;> rfl
@[simp] theorem withPriv_satp (s : State) (p : Priv) : (s.withPriv p).satp = s.satp := by unfold State.withPriv; split <;> rfl
@[simp] theorem withPriv_mcycle (s : State) (p : Priv) : (s.withPriv p).mcycle = s.mcycle := by unfold State.withPriv; split <;> rfl
@[simp] theorem withPriv_minstret (s : State) (p : Priv) : (s.withPriv p).minstret = s.minstret := by unfold State.withPriv; split <;> rfl
@[simp] theorem withPriv_ilrsc (s : State) (p : Priv) : (s.withPriv p).ilrsc = s.ilrsc := by unfold State.withPriv; split <;> rfl
@[simp] theorem withPriv_mtimecmp (s : State) (p : Priv) : (s.withPriv p).mtimecmp = s.mtimecmp := by unfold State.withPriv; split <;> rfl
@[simp] theorem withPriv_tohost (s : State) (p : Priv) : (s.withPriv p).tohost = s.tohost := by unfold State.withPriv; split <;> rfl
@[simp] theorem withPriv_fromhost (s : State) (p : Priv) : (s.withPriv p).fromhost = s.fromhost := by unfold State.withPriv; split <;> rfl
@[simp] theorem withPriv_fromhostPending (s : State) (p : Priv) : (s.withPriv p).fromhostPending = s.fromhostPending := by unfold State.withPriv; split <;> rfl
@[simp] theorem withPriv_consoleOut (s : State) (p : Priv) : (s.withPriv p).consoleOut = s.consoleOut := by unfold State.withPriv; split <;> rfl
@[simp] theorem withPriv_consoleIn (s : State) (p : Priv) : (s.withPriv p).consoleIn = s.consoleIn := by unfold State.withPriv; split <;> rfl
@[simp] theorem withPriv_mem (s : State) (p : Priv) : (s.withPriv p).mem = s.mem := by unfold State.withPriv; split <;> rfl
@[simp] theorem withPriv_mcycleEnd (s : State) (p : Priv) : (s.withPriv p).mcycleEnd = s.mcycleEnd := by unfold State.withPriv; split <;> rfl
@[simp] theorem withPriv_hostInputs (s : State) (p : Priv) : (s.withPriv p).hostInputs = s.hostInputs := by unfold State.withPriv; split <;> rfl
@[simp] theorem withPriv_cfg (s : State) (p : Priv) : (s.withPriv p).cfg = s.cfg := by unfold State.withPriv; split <;> rfl

/-! ## `retireTo`: only `pc` and `minstret` differ -/

@[simp] theorem retireTo_x (s : State) (n : Word) : (s.retireTo n).x = s.x := rfl
@[simp] theorem retireTo_f (s : State) (n : Word) : (s.retireTo n).f = s.f := rfl
@[simp] theorem retireTo_priv (s : State) (n : Word) : (s.retireTo n).priv = s.priv := rfl
@[simp] theorem retireTo_idle (s : State) (n : Word) : (s.retireTo n).idle = s.idle := rfl
@[simp] theorem retireTo_halted (s : State) (n : Word) : (s.retireTo n).halted = s.halted := rfl
@[simp] theorem retireTo_yielded (s : State) (n : Word) : (s.retireTo n).yielded = s.yielded := rfl
@[simp] theorem retireTo_extReq (s : State) (n : Word) : (s.retireTo n).extReq = s.extReq := rfl
@[simp] theorem retireTo_fcsr (s : State) (n : Word) : (s.retireTo n).fcsr = s.fcsr := rfl
@[simp] theorem retireTo_mstatus (s : State) (n : Word) : (s.retireTo n).mstatus = s.mstatus := rfl
@[simp] theorem retireTo_medeleg (s : State) (n : Word) : (s.retireTo n).medeleg = s.medeleg := rfl
@[simp] theorem retireTo_mideleg (s : State) (n : Word) : (s.retireTo n).mideleg = s.mideleg := rfl
@[simp] theorem retireTo_mie (s : State) (n : Word) : (s.retireTo n).mie = s.mie := rfl
@[simp] theorem retireTo_mip (s : State) (n : Word) : (s.retireTo n).mip = s.mip := rfl
@[simp] theorem retireTo_mtvec (s : State) (n : Word) : (s.retireTo n).mtvec = s.mtvec := rfl
@[simp] theorem retireTo_mcounteren (s : State) (n : Word) : (s.retireTo n).mcounteren = s.mcounteren := rfl
@[simp] theorem retireTo_mscratch (s : State) (n : Word) : (s.retireTo n).mscratch = s.mscratch := rfl
@[simp] theorem retireTo_mepc (s : State) (n : Word) : (s.retireTo n).mepc = s.mepc := rfl
@[simp] theorem retireTo_mcause (s : State) (n : Word) : (s.retireTo n).mcause = s.mcause := rfl
@[simp] theorem retireTo_mtval (s : State) (n : Word) : (s.retireTo n).mtval = s.mtval := rfl
@[simp] theorem retireTo_stvec (s : State) (n : Word) : (s.retireTo n).stvec = s.stvec := rfl
@[simp] theorem retireTo_scounteren (s : State) (n : Word) : (s.retireTo n).scounteren = s.scounteren := rfl
@[simp] theorem retireTo_sscratch (s : State) (n : Word) : (s.retireTo n).sscratch = s.sscratch := rfl
@[simp] theorem retireTo_sepc (s : State) (n : Word) : (s.retireTo n).sepc = s.sepc := rfl
@[simp] theorem retireTo_scause (s : State) (n : Word) : (s.retireTo n).scause = s.scause := rfl
@[simp] theorem retireTo_stval (s : State) (n : Word) : (s.retireTo n).stval = s.stval := rfl
@[simp] theorem retireTo_satp (s : State) (n : Word) : (s.retireTo n).satp = s.satp := rfl
@[simp] theorem retireTo_mcycle (s : State) (n : Word) : (s.retireTo n).mcycle = s.mcycle := rfl
@[simp] theorem retireTo_ilrsc (s : State) (n : Word) : (s.retireTo n).ilrsc = s.ilrsc := rfl
@[simp] theorem retireTo_mtimecmp (s : State) (n : Word) : (s.retireTo n).mtimecmp = s.mtimecmp := rfl
@[simp] theorem retireTo_tohost (s : State) (n : Word) : (s.retireTo n).tohost = s.tohost := rfl
@[simp] theorem retireTo_fromhost (s : State) (n : Word) : (s.retireTo n).fromhost = s.fromhost := rfl
@[simp] theorem retireTo_fromhostPending (s : State) (n : Word) : (s.retireTo n).fromhostPending = s.fromhostPending := rfl
@[simp] theorem retireTo_consoleOut (s : State) (n : Word) : (s.retireTo n).consoleOut = s.consoleOut := rfl
@[simp] theorem retireTo_consoleIn (s : State) (n : Word) : (s.retireTo n).consoleIn = s.consoleIn := rfl
@[simp] theorem retireTo_tlbRead (s : State) (n : Word) : (s.retireTo n).tlbRead = s.tlbRead := rfl
@[simp] theorem retireTo_tlbWrite (s : State) (n : Word) : (s.retireTo n).tlbWrite = s.tlbWrite := rfl
@[simp] theorem retireTo_tlbCode (s : State) (n : Word) : (s.retireTo n).tlbCode = s.tlbCode := rfl
@[simp] theorem retireTo_mem (s : State) (n : Word) : (s.retireTo n).mem = s.mem := rfl
@[simp] theorem retireTo_mcycleEnd (s : State) (n : Word) : (s.retireTo n).mcycleEnd = s.mcycleEnd := rfl
@[simp] theorem retireTo_hostInputs (s : State) (n : Word) : (s.retireTo n).hostInputs = s.hostInputs := rfl
@[simp] theorem retireTo_cfg (s : State) (n : Word) : (s.retireTo n).cfg = s.cfg := rfl

/-! ## `retire`: only `pc` and `minstret` differ -/

@[simp] theorem retire_x (s : State) (n : Word) : (s.retire n).x = s.x := rfl
@[simp] theorem retire_f (s : State) (n : Word) : (s.retire n).f = s.f := rfl
@[simp] theorem retire_priv (s : State) (n : Word) : (s.retire n).priv = s.priv := rfl
@[simp] theorem retire_idle (s : State) (n : Word) : (s.retire n).idle = s.idle := rfl
@[simp] theorem retire_halted (s : State) (n : Word) : (s.retire n).halted = s.halted := rfl
@[simp] theorem retire_yielded (s : State) (n : Word) : (s.retire n).yielded = s.yielded := rfl
@[simp] theorem retire_extReq (s : State) (n : Word) : (s.retire n).extReq = s.extReq := rfl
@[simp] theorem retire_fcsr (s : State) (n : Word) : (s.retire n).fcsr = s.fcsr := rfl
@[simp] theorem retire_mstatus (s : State) (n : Word) : (s.retire n).mstatus = s.mstatus := rfl
@[simp] theorem retire_medeleg (s : State) (n : Word) : (s.retire n).medeleg = s.medeleg := rfl
@[simp] theorem retire_mideleg (s : State) (n : Word) : (s.retire n).mideleg = s.mideleg := rfl
@[simp] theorem retire_mie (s : State) (n : Word) : (s.retire n).mie = s.mie := rfl
@[simp] theorem retire_mip (s : State) (n : Word) : (s.retire n).mip = s.mip := rfl
@[simp] theorem retire_mtvec (s : State) (n : Word) : (s.retire n).mtvec = s.mtvec := rfl
@[simp] theorem retire_mcounteren (s : State) (n : Word) : (s.retire n).mcounteren = s.mcounteren := rfl
@[simp] theorem retire_mscratch (s : State) (n : Word) : (s.retire n).mscratch = s.mscratch := rfl
@[simp] theorem retire_mepc (s : State) (n : Word) : (s.retire n).mepc = s.mepc := rfl
@[simp] theorem retire_mcause (s : State) (n : Word) : (s.retire n).mcause = s.mcause := rfl
@[simp] theorem retire_mtval (s : State) (n : Word) : (s.retire n).mtval = s.mtval := rfl
@[simp] theorem retire_stvec (s : State) (n : Word) : (s.retire n).stvec = s.stvec := rfl
@[simp] theorem retire_scounteren (s : State) (n : Word) : (s.retire n).scounteren = s.scounteren := rfl
@[simp] theorem retire_sscratch (s : State) (n : Word) : (s.retire n).sscratch = s.sscratch := rfl
@[simp] theorem retire_sepc (s : State) (n : Word) : (s.retire n).sepc = s.sepc := rfl
@[simp] theorem retire_scause (s : State) (n : Word) : (s.retire n).scause = s.scause := rfl
@[simp] theorem retire_stval (s : State) (n : Word) : (s.retire n).stval = s.stval := rfl
@[simp] theorem retire_satp (s : State) (n : Word) : (s.retire n).satp = s.satp := rfl
@[simp] theorem retire_mcycle (s : State) (n : Word) : (s.retire n).mcycle = s.mcycle := rfl
@[simp] theorem retire_ilrsc (s : State) (n : Word) : (s.retire n).ilrsc = s.ilrsc := rfl
@[simp] theorem retire_mtimecmp (s : State) (n : Word) : (s.retire n).mtimecmp = s.mtimecmp := rfl
@[simp] theorem retire_tohost (s : State) (n : Word) : (s.retire n).tohost = s.tohost := rfl
@[simp] theorem retire_fromhost (s : State) (n : Word) : (s.retire n).fromhost = s.fromhost := rfl
@[simp] theorem retire_fromhostPending (s : State) (n : Word) : (s.retire n).fromhostPending = s.fromhostPending := rfl
@[simp] theorem retire_consoleOut (s : State) (n : Word) : (s.retire n).consoleOut = s.consoleOut := rfl
@[simp] theorem retire_consoleIn (s : State) (n : Word) : (s.retire n).consoleIn = s.consoleIn := rfl
@[simp] theorem retire_tlbRead (s : State) (n : Word) : (s.retire n).tlbRead = s.tlbRead := rfl
@[simp] theorem retire_tlbWrite (s : State) (n : Word) : (s.retire n).tlbWrite = s.tlbWrite := rfl
@[simp] theorem retire_tlbCode (s : State) (n : Word) : (s.retire n).tlbCode = s.tlbCode := rfl
@[simp] theorem retire_mem (s : State) (n : Word) : (s.retire n).mem = s.mem := rfl
@[simp] theorem retire_mcycleEnd (s : State) (n : Word) : (s.retire n).mcycleEnd = s.mcycleEnd := rfl
@[simp] theorem retire_hostInputs (s : State) (n : Word) : (s.retire n).hostInputs = s.hostInputs := rfl
@[simp] theorem retire_cfg (s : State) (n : Word) : (s.retire n).cfg = s.cfg := rfl

/-! ## `dirtyFs`: only `mstatus.FS` may differ -/

@[simp] theorem dirtyFs_x (s : State) : (s.dirtyFs).x = s.x := rfl
@[simp] theorem dirtyFs_f (s : State) : (s.dirtyFs).f = s.f := rfl
@[simp] theorem dirtyFs_pc (s : State) : (s.dirtyFs).pc = s.pc := rfl
@[simp] theorem dirtyFs_priv (s : State) : (s.dirtyFs).priv = s.priv := rfl
@[simp] theorem dirtyFs_idle (s : State) : (s.dirtyFs).idle = s.idle := rfl
@[simp] theorem dirtyFs_halted (s : State) : (s.dirtyFs).halted = s.halted := rfl
@[simp] theorem dirtyFs_yielded (s : State) : (s.dirtyFs).yielded = s.yielded := rfl
@[simp] theorem dirtyFs_extReq (s : State) : (s.dirtyFs).extReq = s.extReq := rfl
@[simp] theorem dirtyFs_fcsr (s : State) : (s.dirtyFs).fcsr = s.fcsr := rfl
@[simp] theorem dirtyFs_medeleg (s : State) : (s.dirtyFs).medeleg = s.medeleg := rfl
@[simp] theorem dirtyFs_mideleg (s : State) : (s.dirtyFs).mideleg = s.mideleg := rfl
@[simp] theorem dirtyFs_mie (s : State) : (s.dirtyFs).mie = s.mie := rfl
@[simp] theorem dirtyFs_mip (s : State) : (s.dirtyFs).mip = s.mip := rfl
@[simp] theorem dirtyFs_mtvec (s : State) : (s.dirtyFs).mtvec = s.mtvec := rfl
@[simp] theorem dirtyFs_mcounteren (s : State) : (s.dirtyFs).mcounteren = s.mcounteren := rfl
@[simp] theorem dirtyFs_mscratch (s : State) : (s.dirtyFs).mscratch = s.mscratch := rfl
@[simp] theorem dirtyFs_mepc (s : State) : (s.dirtyFs).mepc = s.mepc := rfl
@[simp] theorem dirtyFs_mcause (s : State) : (s.dirtyFs).mcause = s.mcause := rfl
@[simp] theorem dirtyFs_mtval (s : State) : (s.dirtyFs).mtval = s.mtval := rfl
@[simp] theorem dirtyFs_stvec (s : State) : (s.dirtyFs).stvec = s.stvec := rfl
@[simp] theorem dirtyFs_scounteren (s : State) : (s.dirtyFs).scounteren = s.scounteren := rfl
@[simp] theorem dirtyFs_sscratch (s : State) : (s.dirtyFs).sscratch = s.sscratch := rfl
@[simp] theorem dirtyFs_sepc (s : State) : (s.dirtyFs).sepc = s.sepc := rfl
@[simp] theorem dirtyFs_scause (s : State) : (s.dirtyFs).scause = s.scause := rfl
@[simp] theorem dirtyFs_stval (s : State) : (s.dirtyFs).stval = s.stval := rfl
@[simp] theorem dirtyFs_satp (s : State) : (s.dirtyFs).satp = s.satp := rfl
@[simp] theorem dirtyFs_mcycle (s : State) : (s.dirtyFs).mcycle = s.mcycle := rfl
@[simp] theorem dirtyFs_minstret (s : State) : (s.dirtyFs).minstret = s.minstret := rfl
@[simp] theorem dirtyFs_ilrsc (s : State) : (s.dirtyFs).ilrsc = s.ilrsc := rfl
@[simp] theorem dirtyFs_mtimecmp (s : State) : (s.dirtyFs).mtimecmp = s.mtimecmp := rfl
@[simp] theorem dirtyFs_tohost (s : State) : (s.dirtyFs).tohost = s.tohost := rfl
@[simp] theorem dirtyFs_fromhost (s : State) : (s.dirtyFs).fromhost = s.fromhost := rfl
@[simp] theorem dirtyFs_fromhostPending (s : State) : (s.dirtyFs).fromhostPending = s.fromhostPending := rfl
@[simp] theorem dirtyFs_consoleOut (s : State) : (s.dirtyFs).consoleOut = s.consoleOut := rfl
@[simp] theorem dirtyFs_consoleIn (s : State) : (s.dirtyFs).consoleIn = s.consoleIn := rfl
@[simp] theorem dirtyFs_tlbRead (s : State) : (s.dirtyFs).tlbRead = s.tlbRead := rfl
@[simp] theorem dirtyFs_tlbWrite (s : State) : (s.dirtyFs).tlbWrite = s.tlbWrite := rfl
@[simp] theorem dirtyFs_tlbCode (s : State) : (s.dirtyFs).tlbCode = s.tlbCode := rfl
@[simp] theorem dirtyFs_mem (s : State) : (s.dirtyFs).mem = s.mem := rfl
@[simp] theorem dirtyFs_mcycleEnd (s : State) : (s.dirtyFs).mcycleEnd = s.mcycleEnd := rfl
@[simp] theorem dirtyFs_hostInputs (s : State) : (s.dirtyFs).hostInputs = s.hostInputs := rfl
@[simp] theorem dirtyFs_cfg (s : State) : (s.dirtyFs).cfg = s.cfg := rfl

/-! ## `accrue`: only `fcsr` and `mstatus.FS` may differ -/

@[simp] theorem accrue_x (s : State) (fl : FFlags) : (s.accrue fl).x = s.x := by unfold State.accrue; split <;> rfl
@[simp] theorem accrue_f (s : State) (fl : FFlags) : (s.accrue fl).f = s.f := by unfold State.accrue; split <;> rfl
@[simp] theorem accrue_pc (s : State) (fl : FFlags) : (s.accrue fl).pc = s.pc := by unfold State.accrue; split <;> rfl
@[simp] theorem accrue_priv (s : State) (fl : FFlags) : (s.accrue fl).priv = s.priv := by unfold State.accrue; split <;> rfl
@[simp] theorem accrue_idle (s : State) (fl : FFlags) : (s.accrue fl).idle = s.idle := by unfold State.accrue; split <;> rfl
@[simp] theorem accrue_halted (s : State) (fl : FFlags) : (s.accrue fl).halted = s.halted := by unfold State.accrue; split <;> rfl
@[simp] theorem accrue_yielded (s : State) (fl : FFlags) : (s.accrue fl).yielded = s.yielded := by unfold State.accrue; split <;> rfl
@[simp] theorem accrue_extReq (s : State) (fl : FFlags) : (s.accrue fl).extReq = s.extReq := by unfold State.accrue; split <;> rfl
@[simp] theorem accrue_medeleg (s : State) (fl : FFlags) : (s.accrue fl).medeleg = s.medeleg := by unfold State.accrue; split <;> rfl
@[simp] theorem accrue_mideleg (s : State) (fl : FFlags) : (s.accrue fl).mideleg = s.mideleg := by unfold State.accrue; split <;> rfl
@[simp] theorem accrue_mie (s : State) (fl : FFlags) : (s.accrue fl).mie = s.mie := by unfold State.accrue; split <;> rfl
@[simp] theorem accrue_mip (s : State) (fl : FFlags) : (s.accrue fl).mip = s.mip := by unfold State.accrue; split <;> rfl
@[simp] theorem accrue_mtvec (s : State) (fl : FFlags) : (s.accrue fl).mtvec = s.mtvec := by unfold State.accrue; split <;> rfl
@[simp] theorem accrue_mcounteren (s : State) (fl : FFlags) : (s.accrue fl).mcounteren = s.mcounteren := by unfold State.accrue; split <;> rfl
@[simp] theorem accrue_mscratch (s : State) (fl : FFlags) : (s.accrue fl).mscratch = s.mscratch := by unfold State.accrue; split <;> rfl
@[simp] theorem accrue_mepc (s : State) (fl : FFlags) : (s.accrue fl).mepc = s.mepc := by unfold State.accrue; split <;> rfl
@[simp] theorem accrue_mcause (s : State) (fl : FFlags) : (s.accrue fl).mcause = s.mcause := by unfold State.accrue; split <;> rfl
@[simp] theorem accrue_mtval (s : State) (fl : FFlags) : (s.accrue fl).mtval = s.mtval := by unfold State.accrue; split <;> rfl
@[simp] theorem accrue_stvec (s : State) (fl : FFlags) : (s.accrue fl).stvec = s.stvec := by unfold State.accrue; split <;> rfl
@[simp] theorem accrue_scounteren (s : State) (fl : FFlags) : (s.accrue fl).scounteren = s.scounteren := by unfold State.accrue; split <;> rfl
@[simp] theorem accrue_sscratch (s : State) (fl : FFlags) : (s.accrue fl).sscratch = s.sscratch := by unfold State.accrue; split <;> rfl
@[simp] theorem accrue_sepc (s : State) (fl : FFlags) : (s.accrue fl).sepc = s.sepc := by unfold State.accrue; split <;> rfl
@[simp] theorem accrue_scause (s : State) (fl : FFlags) : (s.accrue fl).scause = s.scause := by unfold State.accrue; split <;> rfl
@[simp] theorem accrue_stval (s : State) (fl : FFlags) : (s.accrue fl).stval = s.stval := by unfold State.accrue; split <;> rfl
@[simp] theorem accrue_satp (s : State) (fl : FFlags) : (s.accrue fl).satp = s.satp := by unfold State.accrue; split <;> rfl
@[simp] theorem accrue_mcycle (s : State) (fl : FFlags) : (s.accrue fl).mcycle = s.mcycle := by unfold State.accrue; split <;> rfl
@[simp] theorem accrue_minstret (s : State) (fl : FFlags) : (s.accrue fl).minstret = s.minstret := by unfold State.accrue; split <;> rfl
@[simp] theorem accrue_ilrsc (s : State) (fl : FFlags) : (s.accrue fl).ilrsc = s.ilrsc := by unfold State.accrue; split <;> rfl
@[simp] theorem accrue_mtimecmp (s : State) (fl : FFlags) : (s.accrue fl).mtimecmp = s.mtimecmp := by unfold State.accrue; split <;> rfl
@[simp] theorem accrue_tohost (s : State) (fl : FFlags) : (s.accrue fl).tohost = s.tohost := by unfold State.accrue; split <;> rfl
@[simp] theorem accrue_fromhost (s : State) (fl : FFlags) : (s.accrue fl).fromhost = s.fromhost := by unfold State.accrue; split <;> rfl
@[simp] theorem accrue_fromhostPending (s : State) (fl : FFlags) : (s.accrue fl).fromhostPending = s.fromhostPending := by unfold State.accrue; split <;> rfl
@[simp] theorem accrue_consoleOut (s : State) (fl : FFlags) : (s.accrue fl).consoleOut = s.consoleOut := by unfold State.accrue; split <;> rfl
@[simp] theorem accrue_consoleIn (s : State) (fl : FFlags) : (s.accrue fl).consoleIn = s.consoleIn := by unfold State.accrue; split <;> rfl
@[simp] theorem accrue_tlbRead (s : State) (fl : FFlags) : (s.accrue fl).tlbRead = s.tlbRead := by unfold State.accrue; split <;> rfl
@[simp] theorem accrue_tlbWrite (s : State) (fl : FFlags) : (s.accrue fl).tlbWrite = s.tlbWrite := by unfold State.accrue; split <;> rfl
@[simp] theorem accrue_tlbCode (s : State) (fl : FFlags) : (s.accrue fl).tlbCode = s.tlbCode := by unfold State.accrue; split <;> rfl
@[simp] theorem accrue_mem (s : State) (fl : FFlags) : (s.accrue fl).mem = s.mem := by unfold State.accrue; split <;> rfl
@[simp] theorem accrue_mcycleEnd (s : State) (fl : FFlags) : (s.accrue fl).mcycleEnd = s.mcycleEnd := by unfold State.accrue; split <;> rfl
@[simp] theorem accrue_hostInputs (s : State) (fl : FFlags) : (s.accrue fl).hostInputs = s.hostInputs := by unfold State.accrue; split <;> rfl
@[simp] theorem accrue_cfg (s : State) (fl : FFlags) : (s.accrue fl).cfg = s.cfg := by unfold State.accrue; split <;> rfl

/-! ## `storeMem`: only memory, the reservation and the TLBs may differ -/

@[simp] theorem storeMem_x (s : State) (a n : Nat) (v : Word) : (s.storeMem a n v).x = s.x := rfl
@[simp] theorem storeMem_f (s : State) (a n : Nat) (v : Word) : (s.storeMem a n v).f = s.f := rfl
@[simp] theorem storeMem_pc (s : State) (a n : Nat) (v : Word) : (s.storeMem a n v).pc = s.pc := rfl
@[simp] theorem storeMem_priv (s : State) (a n : Nat) (v : Word) : (s.storeMem a n v).priv = s.priv := rfl
@[simp] theorem storeMem_idle (s : State) (a n : Nat) (v : Word) : (s.storeMem a n v).idle = s.idle := rfl
@[simp] theorem storeMem_halted (s : State) (a n : Nat) (v : Word) : (s.storeMem a n v).halted = s.halted := rfl
@[simp] theorem storeMem_yielded (s : State) (a n : Nat) (v : Word) : (s.storeMem a n v).yielded = s.yielded := rfl
@[simp] theorem storeMem_extReq (s : State) (a n : Nat) (v : Word) : (s.storeMem a n v).extReq = s.extReq := rfl
@[simp] theorem storeMem_fcsr (s : State) (a n : Nat) (v : Word) : (s.storeMem a n v).fcsr = s.fcsr := rfl
@[simp] theorem storeMem_mstatus (s : State) (a n : Nat) (v : Word) : (s.storeMem a n v).mstatus = s.mstatus := rfl
@[simp] theorem storeMem_medeleg (s : State) (a n : Nat) (v : Word) : (s.storeMem a n v).medeleg = s.medeleg := rfl
@[simp] theorem storeMem_mideleg (s : State) (a n : Nat) (v : Word) : (s.storeMem a n v).mideleg = s.mideleg := rfl
@[simp] theorem storeMem_mie (s : State) (a n : Nat) (v : Word) : (s.storeMem a n v).mie = s.mie := rfl
@[simp] theorem storeMem_mip (s : State) (a n : Nat) (v : Word) : (s.storeMem a n v).mip = s.mip := rfl
@[simp] theorem storeMem_mtvec (s : State) (a n : Nat) (v : Word) : (s.storeMem a n v).mtvec = s.mtvec := rfl
@[simp] theorem storeMem_mcounteren (s : State) (a n : Nat) (v : Word) : (s.storeMem a n v).mcounteren = s.mcounteren := rfl
@[simp] theorem storeMem_mscratch (s : State) (a n : Nat) (v : Word) : (s.storeMem a n v).mscratch = s.mscratch := rfl
@[simp] theorem storeMem_mepc (s : State) (a n : Nat) (v : Word) : (s.storeMem a n v).mepc = s.mepc := rfl
@[simp] theorem storeMem_mcause (s : State) (a n : Nat) (v : Word) : (s.storeMem a n v).mcause = s.mcause := rfl
@[simp] theorem storeMem_mtval (s : State) (a n : Nat) (v : Word) : (s.storeMem a n v).mtval = s.mtval := rfl
@[simp] theorem storeMem_stvec (s : State) (a n : Nat) (v : Word) : (s.storeMem a n v).stvec = s.stvec := rfl
@[simp] theorem storeMem_scounteren (s : State) (a n : Nat) (v : Word) : (s.storeMem a n v).scounteren = s.scounteren := rfl
@[simp] theorem storeMem_sscratch (s : State) (a n : Nat) (v : Word) : (s.storeMem a n v).sscratch = s.sscratch := rfl
@[simp] theorem storeMem_sepc (s : State) (a n : Nat) (v : Word) : (s.storeMem a n v).sepc = s.sepc := rfl
@[simp] theorem storeMem_scause (s : State) (a n : Nat) (v : Word) : (s.storeMem a n v).scause = s.scause := rfl
@[simp] theorem storeMem_stval (s : State) (a n : Nat) (v : Word) : (s.storeMem a n v).stval = s.stval := rfl
@[simp] theorem storeMem_satp (s : State) (a n : Nat) (v : Word) : (s.storeMem a n v).satp = s.satp := rfl
@[simp] theorem storeMem_mcycle (s : State) (a n : Nat) (v : Word) : (s.storeMem a n v).mcycle = s.mcycle := rfl
@[simp] theorem storeMem_minstret (s : State) (a n : Nat) (v : Word) : (s.storeMem a n v).minstret = s.minstret := rfl
@[simp] theorem storeMem_mtimecmp (s : State) (a n : Nat) (v : Word) : (s.storeMem a n v).mtimecmp = s.mtimecmp := rfl
@[simp] theorem storeMem_tohost (s : State) (a n : Nat) (v : Word) : (s.storeMem a n v).tohost = s.tohost := rfl
@[simp] theorem storeMem_fromhost (s : State) (a n : Nat) (v : Word) : (s.storeMem a n v).fromhost = s.fromhost := rfl
@[simp] theorem storeMem_fromhostPending (s : State) (a n : Nat) (v : Word) : (s.storeMem a n v).fromhostPending = s.fromhostPending := rfl
@[simp] theorem storeMem_consoleOut (s : State) (a n : Nat) (v : Word) : (s.storeMem a n v).consoleOut = s.consoleOut := rfl
@[simp] theorem storeMem_consoleIn (s : State) (a n : Nat) (v : Word) : (s.storeMem a n v).consoleIn = s.consoleIn := rfl
@[simp] theorem storeMem_mcycleEnd (s : State) (a n : Nat) (v : Word) : (s.storeMem a n v).mcycleEnd = s.mcycleEnd := rfl
@[simp] theorem storeMem_hostInputs (s : State) (a n : Nat) (v : Word) : (s.storeMem a n v).hostInputs = s.hostInputs := rfl
@[simp] theorem storeMem_cfg (s : State) (a n : Nat) (v : Word) : (s.storeMem a n v).cfg = s.cfg := rfl

/-! ## `setTlb`: only that TLB differs -/

@[simp] theorem setTlb_x (s : State) (acc : Access) (t : Tlb) : (s.setTlb acc t).x = s.x := by cases acc <;> rfl
@[simp] theorem setTlb_f (s : State) (acc : Access) (t : Tlb) : (s.setTlb acc t).f = s.f := by cases acc <;> rfl
@[simp] theorem setTlb_pc (s : State) (acc : Access) (t : Tlb) : (s.setTlb acc t).pc = s.pc := by cases acc <;> rfl
@[simp] theorem setTlb_priv (s : State) (acc : Access) (t : Tlb) : (s.setTlb acc t).priv = s.priv := by cases acc <;> rfl
@[simp] theorem setTlb_idle (s : State) (acc : Access) (t : Tlb) : (s.setTlb acc t).idle = s.idle := by cases acc <;> rfl
@[simp] theorem setTlb_halted (s : State) (acc : Access) (t : Tlb) : (s.setTlb acc t).halted = s.halted := by cases acc <;> rfl
@[simp] theorem setTlb_yielded (s : State) (acc : Access) (t : Tlb) : (s.setTlb acc t).yielded = s.yielded := by cases acc <;> rfl
@[simp] theorem setTlb_extReq (s : State) (acc : Access) (t : Tlb) : (s.setTlb acc t).extReq = s.extReq := by cases acc <;> rfl
@[simp] theorem setTlb_fcsr (s : State) (acc : Access) (t : Tlb) : (s.setTlb acc t).fcsr = s.fcsr := by cases acc <;> rfl
@[simp] theorem setTlb_mstatus (s : State) (acc : Access) (t : Tlb) : (s.setTlb acc t).mstatus = s.mstatus := by cases acc <;> rfl
@[simp] theorem setTlb_medeleg (s : State) (acc : Access) (t : Tlb) : (s.setTlb acc t).medeleg = s.medeleg := by cases acc <;> rfl
@[simp] theorem setTlb_mideleg (s : State) (acc : Access) (t : Tlb) : (s.setTlb acc t).mideleg = s.mideleg := by cases acc <;> rfl
@[simp] theorem setTlb_mie (s : State) (acc : Access) (t : Tlb) : (s.setTlb acc t).mie = s.mie := by cases acc <;> rfl
@[simp] theorem setTlb_mip (s : State) (acc : Access) (t : Tlb) : (s.setTlb acc t).mip = s.mip := by cases acc <;> rfl
@[simp] theorem setTlb_mtvec (s : State) (acc : Access) (t : Tlb) : (s.setTlb acc t).mtvec = s.mtvec := by cases acc <;> rfl
@[simp] theorem setTlb_mcounteren (s : State) (acc : Access) (t : Tlb) : (s.setTlb acc t).mcounteren = s.mcounteren := by cases acc <;> rfl
@[simp] theorem setTlb_mscratch (s : State) (acc : Access) (t : Tlb) : (s.setTlb acc t).mscratch = s.mscratch := by cases acc <;> rfl
@[simp] theorem setTlb_mepc (s : State) (acc : Access) (t : Tlb) : (s.setTlb acc t).mepc = s.mepc := by cases acc <;> rfl
@[simp] theorem setTlb_mcause (s : State) (acc : Access) (t : Tlb) : (s.setTlb acc t).mcause = s.mcause := by cases acc <;> rfl
@[simp] theorem setTlb_mtval (s : State) (acc : Access) (t : Tlb) : (s.setTlb acc t).mtval = s.mtval := by cases acc <;> rfl
@[simp] theorem setTlb_stvec (s : State) (acc : Access) (t : Tlb) : (s.setTlb acc t).stvec = s.stvec := by cases acc <;> rfl
@[simp] theorem setTlb_scounteren (s : State) (acc : Access) (t : Tlb) : (s.setTlb acc t).scounteren = s.scounteren := by cases acc <;> rfl
@[simp] theorem setTlb_sscratch (s : State) (acc : Access) (t : Tlb) : (s.setTlb acc t).sscratch = s.sscratch := by cases acc <;> rfl
@[simp] theorem setTlb_sepc (s : State) (acc : Access) (t : Tlb) : (s.setTlb acc t).sepc = s.sepc := by cases acc <;> rfl
@[simp] theorem setTlb_scause (s : State) (acc : Access) (t : Tlb) : (s.setTlb acc t).scause = s.scause := by cases acc <;> rfl
@[simp] theorem setTlb_stval (s : State) (acc : Access) (t : Tlb) : (s.setTlb acc t).stval = s.stval := by cases acc <;> rfl
@[simp] theorem setTlb_satp (s : State) (acc : Access) (t : Tlb) : (s.setTlb acc t).satp = s.satp := by cases acc <;> rfl
@[simp] theorem setTlb_mcycle (s : State) (acc : Access) (t : Tlb) : (s.setTlb acc t).mcycle = s.mcycle := by cases acc <;> rfl
@[simp] theorem setTlb_minstret (s : State) (acc : Access) (t : Tlb) : (s.setTlb acc t).minstret = s.minstret := by cases acc <;> rfl
@[simp] theorem setTlb_ilrsc (s : State) (acc : Access) (t : Tlb) : (s.setTlb acc t).ilrsc = s.ilrsc := by cases acc <;> rfl
@[simp] theorem setTlb_mtimecmp (s : State) (acc : Access) (t : Tlb) : (s.setTlb acc t).mtimecmp = s.mtimecmp := by cases acc <;> rfl
@[simp] theorem setTlb_tohost (s : State) (acc : Access) (t : Tlb) : (s.setTlb acc t).tohost = s.tohost := by cases acc <;> rfl
@[simp] theorem setTlb_fromhost (s : State) (acc : Access) (t : Tlb) : (s.setTlb acc t).fromhost = s.fromhost := by cases acc <;> rfl
@[simp] theorem setTlb_fromhostPending (s : State) (acc : Access) (t : Tlb) : (s.setTlb acc t).fromhostPending = s.fromhostPending := by cases acc <;> rfl
@[simp] theorem setTlb_consoleOut (s : State) (acc : Access) (t : Tlb) : (s.setTlb acc t).consoleOut = s.consoleOut := by cases acc <;> rfl
@[simp] theorem setTlb_consoleIn (s : State) (acc : Access) (t : Tlb) : (s.setTlb acc t).consoleIn = s.consoleIn := by cases acc <;> rfl
@[simp] theorem setTlb_mem (s : State) (acc : Access) (t : Tlb) : (s.setTlb acc t).mem = s.mem := by cases acc <;> rfl
@[simp] theorem setTlb_mcycleEnd (s : State) (acc : Access) (t : Tlb) : (s.setTlb acc t).mcycleEnd = s.mcycleEnd := by cases acc <;> rfl
@[simp] theorem setTlb_hostInputs (s : State) (acc : Access) (t : Tlb) : (s.setTlb acc t).hostInputs = s.hostInputs := by cases acc <;> rfl
@[simp] theorem setTlb_cfg (s : State) (acc : Access) (t : Tlb) : (s.setTlb acc t).cfg = s.cfg := by cases acc <;> rfl

/-! ## `tick`: only `mcycle` differs -/

@[simp] theorem tick_x (s : State) : (s.tick).x = s.x := rfl
@[simp] theorem tick_f (s : State) : (s.tick).f = s.f := rfl
@[simp] theorem tick_pc (s : State) : (s.tick).pc = s.pc := rfl
@[simp] theorem tick_priv (s : State) : (s.tick).priv = s.priv := rfl
@[simp] theorem tick_idle (s : State) : (s.tick).idle = s.idle := rfl
@[simp] theorem tick_halted (s : State) : (s.tick).halted = s.halted := rfl
@[simp] theorem tick_yielded (s : State) : (s.tick).yielded = s.yielded := rfl
@[simp] theorem tick_extReq (s : State) : (s.tick).extReq = s.extReq := rfl
@[simp] theorem tick_fcsr (s : State) : (s.tick).fcsr = s.fcsr := rfl
@[simp] theorem tick_mstatus (s : State) : (s.tick).mstatus = s.mstatus := rfl
@[simp] theorem tick_medeleg (s : State) : (s.tick).medeleg = s.medeleg := rfl
@[simp] theorem tick_mideleg (s : State) : (s.tick).mideleg = s.mideleg := rfl
@[simp] theorem tick_mie (s : State) : (s.tick).mie = s.mie := rfl
@[simp] theorem tick_mip (s : State) : (s.tick).mip = s.mip := rfl
@[simp] theorem tick_mtvec (s : State) : (s.tick).mtvec = s.mtvec := rfl
@[simp] theorem tick_mcounteren (s : State) : (s.tick).mcounteren = s.mcounteren := rfl
@[simp] theorem tick_mscratch (s : State) : (s.tick).mscratch = s.mscratch := rfl
@[simp] theorem tick_mepc (s : State) : (s.tick).mepc = s.mepc := rfl
@[simp] theorem tick_mcause (s : State) : (s.tick).mcause = s.mcause := rfl
@[simp] theorem tick_mtval (s : State) : (s.tick).mtval = s.mtval := rfl
@[simp] theorem tick_stvec (s : State) : (s.tick).stvec = s.stvec := rfl
@[simp] theorem tick_scounteren (s : State) : (s.tick).scounteren = s.scounteren := rfl
@[simp] theorem tick_sscratch (s : State) : (s.tick).sscratch = s.sscratch := rfl
@[simp] theorem tick_sepc (s : State) : (s.tick).sepc = s.sepc := rfl
@[simp] theorem tick_scause (s : State) : (s.tick).scause = s.scause := rfl
@[simp] theorem tick_stval (s : State) : (s.tick).stval = s.stval := rfl
@[simp] theorem tick_satp (s : State) : (s.tick).satp = s.satp := rfl
@[simp] theorem tick_minstret (s : State) : (s.tick).minstret = s.minstret := rfl
@[simp] theorem tick_ilrsc (s : State) : (s.tick).ilrsc = s.ilrsc := rfl
@[simp] theorem tick_mtimecmp (s : State) : (s.tick).mtimecmp = s.mtimecmp := rfl
@[simp] theorem tick_tohost (s : State) : (s.tick).tohost = s.tohost := rfl
@[simp] theorem tick_fromhost (s : State) : (s.tick).fromhost = s.fromhost := rfl
@[simp] theorem tick_fromhostPending (s : State) : (s.tick).fromhostPending = s.fromhostPending := rfl
@[simp] theorem tick_consoleOut (s : State) : (s.tick).consoleOut = s.consoleOut := rfl
@[simp] theorem tick_consoleIn (s : State) : (s.tick).consoleIn = s.consoleIn := rfl
@[simp] theorem tick_tlbRead (s : State) : (s.tick).tlbRead = s.tlbRead := rfl
@[simp] theorem tick_tlbWrite (s : State) : (s.tick).tlbWrite = s.tlbWrite := rfl
@[simp] theorem tick_tlbCode (s : State) : (s.tick).tlbCode = s.tlbCode := rfl
@[simp] theorem tick_mem (s : State) : (s.tick).mem = s.mem := rfl
@[simp] theorem tick_mcycleEnd (s : State) : (s.tick).mcycleEnd = s.mcycleEnd := rfl
@[simp] theorem tick_hostInputs (s : State) : (s.tick).hostInputs = s.hostInputs := rfl
@[simp] theorem tick_cfg (s : State) : (s.tick).cfg = s.cfg := rfl

/-! ## `takeTrap`: the trap registers, `mstatus`, `priv`, `pc`, the reservation and the TLBs may differ -/

@[simp] theorem takeTrap_x (s : State) (b : Bool) (c : Nat) (p v : Word) : (s.takeTrap b c p v).x = s.x := by
  unfold State.takeTrap; dsimp only; split <;> simp [State.trapToS, State.trapToM]
@[simp] theorem takeTrap_f (s : State) (b : Bool) (c : Nat) (p v : Word) : (s.takeTrap b c p v).f = s.f := by
  unfold State.takeTrap; dsimp only; split <;> simp [State.trapToS, State.trapToM]
@[simp] theorem takeTrap_idle (s : State) (b : Bool) (c : Nat) (p v : Word) : (s.takeTrap b c p v).idle = s.idle := by
  unfold State.takeTrap; dsimp only; split <;> simp [State.trapToS, State.trapToM]
@[simp] theorem takeTrap_halted (s : State) (b : Bool) (c : Nat) (p v : Word) : (s.takeTrap b c p v).halted = s.halted := by
  unfold State.takeTrap; dsimp only; split <;> simp [State.trapToS, State.trapToM]
@[simp] theorem takeTrap_yielded (s : State) (b : Bool) (c : Nat) (p v : Word) : (s.takeTrap b c p v).yielded = s.yielded := by
  unfold State.takeTrap; dsimp only; split <;> simp [State.trapToS, State.trapToM]
@[simp] theorem takeTrap_extReq (s : State) (b : Bool) (c : Nat) (p v : Word) : (s.takeTrap b c p v).extReq = s.extReq := by
  unfold State.takeTrap; dsimp only; split <;> simp [State.trapToS, State.trapToM]
@[simp] theorem takeTrap_fcsr (s : State) (b : Bool) (c : Nat) (p v : Word) : (s.takeTrap b c p v).fcsr = s.fcsr := by
  unfold State.takeTrap; dsimp only; split <;> simp [State.trapToS, State.trapToM]
@[simp] theorem takeTrap_medeleg (s : State) (b : Bool) (c : Nat) (p v : Word) : (s.takeTrap b c p v).medeleg = s.medeleg := by
  unfold State.takeTrap; dsimp only; split <;> simp [State.trapToS, State.trapToM]
@[simp] theorem takeTrap_mideleg (s : State) (b : Bool) (c : Nat) (p v : Word) : (s.takeTrap b c p v).mideleg = s.mideleg := by
  unfold State.takeTrap; dsimp only; split <;> simp [State.trapToS, State.trapToM]
@[simp] theorem takeTrap_mie (s : State) (b : Bool) (c : Nat) (p v : Word) : (s.takeTrap b c p v).mie = s.mie := by
  unfold State.takeTrap; dsimp only; split <;> simp [State.trapToS, State.trapToM]
@[simp] theorem takeTrap_mip (s : State) (b : Bool) (c : Nat) (p v : Word) : (s.takeTrap b c p v).mip = s.mip := by
  unfold State.takeTrap; dsimp only; split <;> simp [State.trapToS, State.trapToM]
@[simp] theorem takeTrap_mtvec (s : State) (b : Bool) (c : Nat) (p v : Word) : (s.takeTrap b c p v).mtvec = s.mtvec := by
  unfold State.takeTrap; dsimp only; split <;> simp [State.trapToS, State.trapToM]
@[simp] theorem takeTrap_mcounteren (s : State) (b : Bool) (c : Nat) (p v : Word) : (s.takeTrap b c p v).mcounteren = s.mcounteren := by
  unfold State.takeTrap; dsimp only; split <;> simp [State.trapToS, State.trapToM]
@[simp] theorem takeTrap_mscratch (s : State) (b : Bool) (c : Nat) (p v : Word) : (s.takeTrap b c p v).mscratch = s.mscratch := by
  unfold State.takeTrap; dsimp only; split <;> simp [State.trapToS, State.trapToM]
@[simp] theorem takeTrap_stvec (s : State) (b : Bool) (c : Nat) (p v : Word) : (s.takeTrap b c p v).stvec = s.stvec := by
  unfold State.takeTrap; dsimp only; split <;> simp [State.trapToS, State.trapToM]
@[simp] theorem takeTrap_scounteren (s : State) (b : Bool) (c : Nat) (p v : Word) : (s.takeTrap b c p v).scounteren = s.scounteren := by
  unfold State.takeTrap; dsimp only; split <;> simp [State.trapToS, State.trapToM]
@[simp] theorem takeTrap_sscratch (s : State) (b : Bool) (c : Nat) (p v : Word) : (s.takeTrap b c p v).sscratch = s.sscratch := by
  unfold State.takeTrap; dsimp only; split <;> simp [State.trapToS, State.trapToM]
@[simp] theorem takeTrap_satp (s : State) (b : Bool) (c : Nat) (p v : Word) : (s.takeTrap b c p v).satp = s.satp := by
  unfold State.takeTrap; dsimp only; split <;> simp [State.trapToS, State.trapToM]
@[simp] theorem takeTrap_mcycle (s : State) (b : Bool) (c : Nat) (p v : Word) : (s.takeTrap b c p v).mcycle = s.mcycle := by
  unfold State.takeTrap; dsimp only; split <;> simp [State.trapToS, State.trapToM]
@[simp] theorem takeTrap_minstret (s : State) (b : Bool) (c : Nat) (p v : Word) : (s.takeTrap b c p v).minstret = s.minstret := by
  unfold State.takeTrap; dsimp only; split <;> simp [State.trapToS, State.trapToM]
@[simp] theorem takeTrap_mtimecmp (s : State) (b : Bool) (c : Nat) (p v : Word) : (s.takeTrap b c p v).mtimecmp = s.mtimecmp := by
  unfold State.takeTrap; dsimp only; split <;> simp [State.trapToS, State.trapToM]
@[simp] theorem takeTrap_tohost (s : State) (b : Bool) (c : Nat) (p v : Word) : (s.takeTrap b c p v).tohost = s.tohost := by
  unfold State.takeTrap; dsimp only; split <;> simp [State.trapToS, State.trapToM]
@[simp] theorem takeTrap_fromhost (s : State) (b : Bool) (c : Nat) (p v : Word) : (s.takeTrap b c p v).fromhost = s.fromhost := by
  unfold State.takeTrap; dsimp only; split <;> simp [State.trapToS, State.trapToM]
@[simp] theorem takeTrap_fromhostPending (s : State) (b : Bool) (c : Nat) (p v : Word) : (s.takeTrap b c p v).fromhostPending = s.fromhostPending := by
  unfold State.takeTrap; dsimp only; split <;> simp [State.trapToS, State.trapToM]
@[simp] theorem takeTrap_consoleOut (s : State) (b : Bool) (c : Nat) (p v : Word) : (s.takeTrap b c p v).consoleOut = s.consoleOut := by
  unfold State.takeTrap; dsimp only; split <;> simp [State.trapToS, State.trapToM]
@[simp] theorem takeTrap_consoleIn (s : State) (b : Bool) (c : Nat) (p v : Word) : (s.takeTrap b c p v).consoleIn = s.consoleIn := by
  unfold State.takeTrap; dsimp only; split <;> simp [State.trapToS, State.trapToM]
@[simp] theorem takeTrap_mem (s : State) (b : Bool) (c : Nat) (p v : Word) : (s.takeTrap b c p v).mem = s.mem := by
  unfold State.takeTrap; dsimp only; split <;> simp [State.trapToS, State.trapToM]
@[simp] theorem takeTrap_mcycleEnd (s : State) (b : Bool) (c : Nat) (p v : Word) : (s.takeTrap b c p v).mcycleEnd = s.mcycleEnd := by
  unfold State.takeTrap; dsimp only; split <;> simp [State.trapToS, State.trapToM]
@[simp] theorem takeTrap_hostInputs (s : State) (b : Bool) (c : Nat) (p v : Word) : (s.takeTrap b c p v).hostInputs = s.hostInputs := by
  unfold State.takeTrap; dsimp only; split <;> simp [State.trapToS, State.trapToM]
@[simp] theorem takeTrap_cfg (s : State) (b : Bool) (c : Nat) (p v : Word) : (s.takeTrap b c p v).cfg = s.cfg := by
  unfold State.takeTrap; dsimp only; split <;> simp [State.trapToS, State.trapToM]
@[simp] theorem takeTrap_ilrsc (s : State) (b : Bool) (c : Nat) (p v : Word) : (s.takeTrap b c p v).ilrsc = none := rfl
@[simp] theorem takeException_x (s : State) (e : Exc) (v : Word) : (s.takeException e v).x = s.x := takeTrap_x ..
@[simp] theorem takeException_f (s : State) (e : Exc) (v : Word) : (s.takeException e v).f = s.f := takeTrap_f ..
@[simp] theorem takeException_idle (s : State) (e : Exc) (v : Word) : (s.takeException e v).idle = s.idle := takeTrap_idle ..
@[simp] theorem takeException_halted (s : State) (e : Exc) (v : Word) : (s.takeException e v).halted = s.halted := takeTrap_halted ..
@[simp] theorem takeException_yielded (s : State) (e : Exc) (v : Word) : (s.takeException e v).yielded = s.yielded := takeTrap_yielded ..
@[simp] theorem takeException_extReq (s : State) (e : Exc) (v : Word) : (s.takeException e v).extReq = s.extReq := takeTrap_extReq ..
@[simp] theorem takeException_fcsr (s : State) (e : Exc) (v : Word) : (s.takeException e v).fcsr = s.fcsr := takeTrap_fcsr ..
@[simp] theorem takeException_medeleg (s : State) (e : Exc) (v : Word) : (s.takeException e v).medeleg = s.medeleg := takeTrap_medeleg ..
@[simp] theorem takeException_mideleg (s : State) (e : Exc) (v : Word) : (s.takeException e v).mideleg = s.mideleg := takeTrap_mideleg ..
@[simp] theorem takeException_mie (s : State) (e : Exc) (v : Word) : (s.takeException e v).mie = s.mie := takeTrap_mie ..
@[simp] theorem takeException_mip (s : State) (e : Exc) (v : Word) : (s.takeException e v).mip = s.mip := takeTrap_mip ..
@[simp] theorem takeException_mtvec (s : State) (e : Exc) (v : Word) : (s.takeException e v).mtvec = s.mtvec := takeTrap_mtvec ..
@[simp] theorem takeException_mcounteren (s : State) (e : Exc) (v : Word) : (s.takeException e v).mcounteren = s.mcounteren := takeTrap_mcounteren ..
@[simp] theorem takeException_mscratch (s : State) (e : Exc) (v : Word) : (s.takeException e v).mscratch = s.mscratch := takeTrap_mscratch ..
@[simp] theorem takeException_stvec (s : State) (e : Exc) (v : Word) : (s.takeException e v).stvec = s.stvec := takeTrap_stvec ..
@[simp] theorem takeException_scounteren (s : State) (e : Exc) (v : Word) : (s.takeException e v).scounteren = s.scounteren := takeTrap_scounteren ..
@[simp] theorem takeException_sscratch (s : State) (e : Exc) (v : Word) : (s.takeException e v).sscratch = s.sscratch := takeTrap_sscratch ..
@[simp] theorem takeException_satp (s : State) (e : Exc) (v : Word) : (s.takeException e v).satp = s.satp := takeTrap_satp ..
@[simp] theorem takeException_mcycle (s : State) (e : Exc) (v : Word) : (s.takeException e v).mcycle = s.mcycle := takeTrap_mcycle ..
@[simp] theorem takeException_minstret (s : State) (e : Exc) (v : Word) : (s.takeException e v).minstret = s.minstret := takeTrap_minstret ..
@[simp] theorem takeException_mtimecmp (s : State) (e : Exc) (v : Word) : (s.takeException e v).mtimecmp = s.mtimecmp := takeTrap_mtimecmp ..
@[simp] theorem takeException_tohost (s : State) (e : Exc) (v : Word) : (s.takeException e v).tohost = s.tohost := takeTrap_tohost ..
@[simp] theorem takeException_fromhost (s : State) (e : Exc) (v : Word) : (s.takeException e v).fromhost = s.fromhost := takeTrap_fromhost ..
@[simp] theorem takeException_fromhostPending (s : State) (e : Exc) (v : Word) : (s.takeException e v).fromhostPending = s.fromhostPending := takeTrap_fromhostPending ..
@[simp] theorem takeException_consoleOut (s : State) (e : Exc) (v : Word) : (s.takeException e v).consoleOut = s.consoleOut := takeTrap_consoleOut ..
@[simp] theorem takeException_consoleIn (s : State) (e : Exc) (v : Word) : (s.takeException e v).consoleIn = s.consoleIn := takeTrap_consoleIn ..
@[simp] theorem takeException_mem (s : State) (e : Exc) (v : Word) : (s.takeException e v).mem = s.mem := takeTrap_mem ..
@[simp] theorem takeException_mcycleEnd (s : State) (e : Exc) (v : Word) : (s.takeException e v).mcycleEnd = s.mcycleEnd := takeTrap_mcycleEnd ..
@[simp] theorem takeException_hostInputs (s : State) (e : Exc) (v : Word) : (s.takeException e v).hostInputs = s.hostInputs := takeTrap_hostInputs ..
@[simp] theorem takeException_cfg (s : State) (e : Exc) (v : Word) : (s.takeException e v).cfg = s.cfg := takeTrap_cfg ..
@[simp] theorem takeException_ilrsc (s : State) (e : Exc) (v : Word) : (s.takeException e v).ilrsc = none := rfl

/-! ## `csrWrite`: only CSRs and the TLBs may differ -/

@[simp] theorem csrWrite_x (s : State) (c : Csr) (v : Word) : (csrWrite s c v).x = s.x := by
  cases c <;> simp [csrWrite, State.writeMstatus, State.writeSatp]; split <;> simp
@[simp] theorem csrWrite_f (s : State) (c : Csr) (v : Word) : (csrWrite s c v).f = s.f := by
  cases c <;> simp [csrWrite, State.writeMstatus, State.writeSatp]; split <;> simp
@[simp] theorem csrWrite_pc (s : State) (c : Csr) (v : Word) : (csrWrite s c v).pc = s.pc := by
  cases c <;> simp [csrWrite, State.writeMstatus, State.writeSatp]; split <;> simp
@[simp] theorem csrWrite_priv (s : State) (c : Csr) (v : Word) : (csrWrite s c v).priv = s.priv := by
  cases c <;> simp [csrWrite, State.writeMstatus, State.writeSatp]; split <;> simp
@[simp] theorem csrWrite_idle (s : State) (c : Csr) (v : Word) : (csrWrite s c v).idle = s.idle := by
  cases c <;> simp [csrWrite, State.writeMstatus, State.writeSatp]; split <;> simp
@[simp] theorem csrWrite_halted (s : State) (c : Csr) (v : Word) : (csrWrite s c v).halted = s.halted := by
  cases c <;> simp [csrWrite, State.writeMstatus, State.writeSatp]; split <;> simp
@[simp] theorem csrWrite_yielded (s : State) (c : Csr) (v : Word) : (csrWrite s c v).yielded = s.yielded := by
  cases c <;> simp [csrWrite, State.writeMstatus, State.writeSatp]; split <;> simp
@[simp] theorem csrWrite_extReq (s : State) (c : Csr) (v : Word) : (csrWrite s c v).extReq = s.extReq := by
  cases c <;> simp [csrWrite, State.writeMstatus, State.writeSatp]; split <;> simp
@[simp] theorem csrWrite_mcycle (s : State) (c : Csr) (v : Word) : (csrWrite s c v).mcycle = s.mcycle := by
  cases c <;> simp [csrWrite, State.writeMstatus, State.writeSatp]; split <;> simp
@[simp] theorem csrWrite_minstret (s : State) (c : Csr) (v : Word) : (csrWrite s c v).minstret = s.minstret := by
  cases c <;> simp [csrWrite, State.writeMstatus, State.writeSatp]; split <;> simp
@[simp] theorem csrWrite_ilrsc (s : State) (c : Csr) (v : Word) : (csrWrite s c v).ilrsc = s.ilrsc := by
  cases c <;> simp [csrWrite, State.writeMstatus, State.writeSatp]; split <;> simp
@[simp] theorem csrWrite_mtimecmp (s : State) (c : Csr) (v : Word) : (csrWrite s c v).mtimecmp = s.mtimecmp := by
  cases c <;> simp [csrWrite, State.writeMstatus, State.writeSatp]; split <;> simp
@[simp] theorem csrWrite_tohost (s : State) (c : Csr) (v : Word) : (csrWrite s c v).tohost = s.tohost := by
  cases c <;> simp [csrWrite, State.writeMstatus, State.writeSatp]; split <;> simp
@[simp] theorem csrWrite_fromhost (s : State) (c : Csr) (v : Word) : (csrWrite s c v).fromhost = s.fromhost := by
  cases c <;> simp [csrWrite, State.writeMstatus, State.writeSatp]; split <;> simp
@[simp] theorem csrWrite_fromhostPending (s : State) (c : Csr) (v : Word) : (csrWrite s c v).fromhostPending = s.fromhostPending := by
  cases c <;> simp [csrWrite, State.writeMstatus, State.writeSatp]; split <;> simp
@[simp] theorem csrWrite_consoleOut (s : State) (c : Csr) (v : Word) : (csrWrite s c v).consoleOut = s.consoleOut := by
  cases c <;> simp [csrWrite, State.writeMstatus, State.writeSatp]; split <;> simp
@[simp] theorem csrWrite_consoleIn (s : State) (c : Csr) (v : Word) : (csrWrite s c v).consoleIn = s.consoleIn := by
  cases c <;> simp [csrWrite, State.writeMstatus, State.writeSatp]; split <;> simp
@[simp] theorem csrWrite_mem (s : State) (c : Csr) (v : Word) : (csrWrite s c v).mem = s.mem := by
  cases c <;> simp [csrWrite, State.writeMstatus, State.writeSatp]; split <;> simp
@[simp] theorem csrWrite_mcycleEnd (s : State) (c : Csr) (v : Word) : (csrWrite s c v).mcycleEnd = s.mcycleEnd := by
  cases c <;> simp [csrWrite, State.writeMstatus, State.writeSatp]; split <;> simp
@[simp] theorem csrWrite_hostInputs (s : State) (c : Csr) (v : Word) : (csrWrite s c v).hostInputs = s.hostInputs := by
  cases c <;> simp [csrWrite, State.writeMstatus, State.writeSatp]; split <;> simp
@[simp] theorem csrWrite_cfg (s : State) (c : Csr) (v : Word) : (csrWrite s c v).cfg = s.cfg := by
  cases c <;> simp [csrWrite, State.writeMstatus, State.writeSatp]; split <;> simp

/-! ## `returnFromM`, `returnFromS`: `mstatus`, `priv`, `pc` and the TLBs may differ -/

@[simp] theorem returnFromM_x (s : State) : s.returnFromM.x = s.x := by simp [State.returnFromM]
@[simp] theorem returnFromM_f (s : State) : s.returnFromM.f = s.f := by simp [State.returnFromM]
@[simp] theorem returnFromM_idle (s : State) : s.returnFromM.idle = s.idle := by simp [State.returnFromM]
@[simp] theorem returnFromM_halted (s : State) : s.returnFromM.halted = s.halted := by simp [State.returnFromM]
@[simp] theorem returnFromM_yielded (s : State) : s.returnFromM.yielded = s.yielded := by simp [State.returnFromM]
@[simp] theorem returnFromM_extReq (s : State) : s.returnFromM.extReq = s.extReq := by simp [State.returnFromM]
@[simp] theorem returnFromM_fcsr (s : State) : s.returnFromM.fcsr = s.fcsr := by simp [State.returnFromM]
@[simp] theorem returnFromM_medeleg (s : State) : s.returnFromM.medeleg = s.medeleg := by simp [State.returnFromM]
@[simp] theorem returnFromM_mideleg (s : State) : s.returnFromM.mideleg = s.mideleg := by simp [State.returnFromM]
@[simp] theorem returnFromM_mie (s : State) : s.returnFromM.mie = s.mie := by simp [State.returnFromM]
@[simp] theorem returnFromM_mip (s : State) : s.returnFromM.mip = s.mip := by simp [State.returnFromM]
@[simp] theorem returnFromM_mtvec (s : State) : s.returnFromM.mtvec = s.mtvec := by simp [State.returnFromM]
@[simp] theorem returnFromM_mcounteren (s : State) : s.returnFromM.mcounteren = s.mcounteren := by simp [State.returnFromM]
@[simp] theorem returnFromM_mscratch (s : State) : s.returnFromM.mscratch = s.mscratch := by simp [State.returnFromM]
@[simp] theorem returnFromM_mepc (s : State) : s.returnFromM.mepc = s.mepc := by simp [State.returnFromM]
@[simp] theorem returnFromM_mcause (s : State) : s.returnFromM.mcause = s.mcause := by simp [State.returnFromM]
@[simp] theorem returnFromM_mtval (s : State) : s.returnFromM.mtval = s.mtval := by simp [State.returnFromM]
@[simp] theorem returnFromM_stvec (s : State) : s.returnFromM.stvec = s.stvec := by simp [State.returnFromM]
@[simp] theorem returnFromM_scounteren (s : State) : s.returnFromM.scounteren = s.scounteren := by simp [State.returnFromM]
@[simp] theorem returnFromM_sscratch (s : State) : s.returnFromM.sscratch = s.sscratch := by simp [State.returnFromM]
@[simp] theorem returnFromM_sepc (s : State) : s.returnFromM.sepc = s.sepc := by simp [State.returnFromM]
@[simp] theorem returnFromM_scause (s : State) : s.returnFromM.scause = s.scause := by simp [State.returnFromM]
@[simp] theorem returnFromM_stval (s : State) : s.returnFromM.stval = s.stval := by simp [State.returnFromM]
@[simp] theorem returnFromM_satp (s : State) : s.returnFromM.satp = s.satp := by simp [State.returnFromM]
@[simp] theorem returnFromM_mcycle (s : State) : s.returnFromM.mcycle = s.mcycle := by simp [State.returnFromM]
@[simp] theorem returnFromM_minstret (s : State) : s.returnFromM.minstret = s.minstret := by simp [State.returnFromM]
@[simp] theorem returnFromM_ilrsc (s : State) : s.returnFromM.ilrsc = s.ilrsc := by simp [State.returnFromM]
@[simp] theorem returnFromM_mtimecmp (s : State) : s.returnFromM.mtimecmp = s.mtimecmp := by simp [State.returnFromM]
@[simp] theorem returnFromM_tohost (s : State) : s.returnFromM.tohost = s.tohost := by simp [State.returnFromM]
@[simp] theorem returnFromM_fromhost (s : State) : s.returnFromM.fromhost = s.fromhost := by simp [State.returnFromM]
@[simp] theorem returnFromM_fromhostPending (s : State) : s.returnFromM.fromhostPending = s.fromhostPending := by simp [State.returnFromM]
@[simp] theorem returnFromM_consoleOut (s : State) : s.returnFromM.consoleOut = s.consoleOut := by simp [State.returnFromM]
@[simp] theorem returnFromM_consoleIn (s : State) : s.returnFromM.consoleIn = s.consoleIn := by simp [State.returnFromM]
@[simp] theorem returnFromM_mem (s : State) : s.returnFromM.mem = s.mem := by simp [State.returnFromM]
@[simp] theorem returnFromM_mcycleEnd (s : State) : s.returnFromM.mcycleEnd = s.mcycleEnd := by simp [State.returnFromM]
@[simp] theorem returnFromM_hostInputs (s : State) : s.returnFromM.hostInputs = s.hostInputs := by simp [State.returnFromM]
@[simp] theorem returnFromM_cfg (s : State) : s.returnFromM.cfg = s.cfg := by simp [State.returnFromM]
@[simp] theorem returnFromS_x (s : State) : s.returnFromS.x = s.x := by simp [State.returnFromS]
@[simp] theorem returnFromS_f (s : State) : s.returnFromS.f = s.f := by simp [State.returnFromS]
@[simp] theorem returnFromS_idle (s : State) : s.returnFromS.idle = s.idle := by simp [State.returnFromS]
@[simp] theorem returnFromS_halted (s : State) : s.returnFromS.halted = s.halted := by simp [State.returnFromS]
@[simp] theorem returnFromS_yielded (s : State) : s.returnFromS.yielded = s.yielded := by simp [State.returnFromS]
@[simp] theorem returnFromS_extReq (s : State) : s.returnFromS.extReq = s.extReq := by simp [State.returnFromS]
@[simp] theorem returnFromS_fcsr (s : State) : s.returnFromS.fcsr = s.fcsr := by simp [State.returnFromS]
@[simp] theorem returnFromS_medeleg (s : State) : s.returnFromS.medeleg = s.medeleg := by simp [State.returnFromS]
@[simp] theorem returnFromS_mideleg (s : State) : s.returnFromS.mideleg = s.mideleg := by simp [State.returnFromS]
@[simp] theorem returnFromS_mie (s : State) : s.returnFromS.mie = s.mie := by simp [State.returnFromS]
@[simp] theorem returnFromS_mip (s : State) : s.returnFromS.mip = s.mip := by simp [State.returnFromS]
@[simp] theorem returnFromS_mtvec (s : State) : s.returnFromS.mtvec = s.mtvec := by simp [State.returnFromS]
@[simp] theorem returnFromS_mcounteren (s : State) : s.returnFromS.mcounteren = s.mcounteren := by simp [State.returnFromS]
@[simp] theorem returnFromS_mscratch (s : State) : s.returnFromS.mscratch = s.mscratch := by simp [State.returnFromS]
@[simp] theorem returnFromS_mepc (s : State) : s.returnFromS.mepc = s.mepc := by simp [State.returnFromS]
@[simp] theorem returnFromS_mcause (s : State) : s.returnFromS.mcause = s.mcause := by simp [State.returnFromS]
@[simp] theorem returnFromS_mtval (s : State) : s.returnFromS.mtval = s.mtval := by simp [State.returnFromS]
@[simp] theorem returnFromS_stvec (s : State) : s.returnFromS.stvec = s.stvec := by simp [State.returnFromS]
@[simp] theorem returnFromS_scounteren (s : State) : s.returnFromS.scounteren = s.scounteren := by simp [State.returnFromS]
@[simp] theorem returnFromS_sscratch (s : State) : s.returnFromS.sscratch = s.sscratch := by simp [State.returnFromS]
@[simp] theorem returnFromS_sepc (s : State) : s.returnFromS.sepc = s.sepc := by simp [State.returnFromS]
@[simp] theorem returnFromS_scause (s : State) : s.returnFromS.scause = s.scause := by simp [State.returnFromS]
@[simp] theorem returnFromS_stval (s : State) : s.returnFromS.stval = s.stval := by simp [State.returnFromS]
@[simp] theorem returnFromS_satp (s : State) : s.returnFromS.satp = s.satp := by simp [State.returnFromS]
@[simp] theorem returnFromS_mcycle (s : State) : s.returnFromS.mcycle = s.mcycle := by simp [State.returnFromS]
@[simp] theorem returnFromS_minstret (s : State) : s.returnFromS.minstret = s.minstret := by simp [State.returnFromS]
@[simp] theorem returnFromS_ilrsc (s : State) : s.returnFromS.ilrsc = s.ilrsc := by simp [State.returnFromS]
@[simp] theorem returnFromS_mtimecmp (s : State) : s.returnFromS.mtimecmp = s.mtimecmp := by simp [State.returnFromS]
@[simp] theorem returnFromS_tohost (s : State) : s.returnFromS.tohost = s.tohost := by simp [State.returnFromS]
@[simp] theorem returnFromS_fromhost (s : State) : s.returnFromS.fromhost = s.fromhost := by simp [State.returnFromS]
@[simp] theorem returnFromS_fromhostPending (s : State) : s.returnFromS.fromhostPending = s.fromhostPending := by simp [State.returnFromS]
@[simp] theorem returnFromS_consoleOut (s : State) : s.returnFromS.consoleOut = s.consoleOut := by simp [State.returnFromS]
@[simp] theorem returnFromS_consoleIn (s : State) : s.returnFromS.consoleIn = s.consoleIn := by simp [State.returnFromS]
@[simp] theorem returnFromS_mem (s : State) : s.returnFromS.mem = s.mem := by simp [State.returnFromS]
@[simp] theorem returnFromS_mcycleEnd (s : State) : s.returnFromS.mcycleEnd = s.mcycleEnd := by simp [State.returnFromS]
@[simp] theorem returnFromS_hostInputs (s : State) : s.returnFromS.hostInputs = s.hostInputs := by simp [State.returnFromS]
@[simp] theorem returnFromS_cfg (s : State) : s.returnFromS.cfg = s.cfg := by simp [State.returnFromS]

/-! ## The values written -/

@[simp] theorem withMstatus_mstatus (s : State) (m : Word) : (s.withMstatus m).mstatus = m := by
  unfold State.withMstatus; split <;> rfl

@[simp] theorem withPriv_priv (s : State) (p : Priv) : (s.withPriv p).priv = p := by
  unfold State.withPriv; split
  · next h => exact h.symm
  · rfl

@[simp] theorem retireTo_pc (s : State) (n : Word) : (s.retireTo n).pc = n := rfl
@[simp] theorem retireTo_minstret (s : State) (n : Word) : (s.retireTo n).minstret = s.minstret + 1#64 := rfl
@[simp] theorem retire_pc (s : State) (n : Word) : (s.retire n).pc = s.pc + n := rfl
@[simp] theorem retire_minstret (s : State) (n : Word) : (s.retire n).minstret = s.minstret + 1#64 := rfl
@[simp] theorem setF_mstatus (s : State) (r : Reg) (v : Word) : (s.setF r v).mstatus = s.mstatus ||| 0x6000#64 := rfl
@[simp] theorem dirtyFs_mstatus (s : State) : s.dirtyFs.mstatus = s.mstatus ||| 0x6000#64 := rfl
@[simp] theorem tick_mcycle (s : State) : s.tick.mcycle = s.mcycle + 1#64 := rfl
@[simp] theorem flushTlbs_tlbRead (s : State) : s.flushTlbs.tlbRead = [] := rfl
@[simp] theorem flushTlbs_tlbWrite (s : State) : s.flushTlbs.tlbWrite = [] := rfl
@[simp] theorem flushTlbs_tlbCode (s : State) : s.flushTlbs.tlbCode = [] := rfl
@[simp] theorem storeMem_mem (s : State) (a n : Nat) (v : Word) : (s.storeMem a n v).mem = s.mem.store a n v.toNat := rfl
@[simp] theorem storeMem_ilrsc (s : State) (a n : Nat) (v : Word) :
    (s.storeMem a n v).ilrsc = breakReservation s.ilrsc a n := rfl

/-! ## `trapToS`, `trapToM`: what a trap entry writes, and what it leaves alone -/

@[simp] theorem trapToS_x (s : State) (c p v : Word) : (s.trapToS c p v).x = s.x := by simp [State.trapToS]
@[simp] theorem trapToS_f (s : State) (c p v : Word) : (s.trapToS c p v).f = s.f := by simp [State.trapToS]
@[simp] theorem trapToS_idle (s : State) (c p v : Word) : (s.trapToS c p v).idle = s.idle := by simp [State.trapToS]
@[simp] theorem trapToS_halted (s : State) (c p v : Word) : (s.trapToS c p v).halted = s.halted := by simp [State.trapToS]
@[simp] theorem trapToS_yielded (s : State) (c p v : Word) : (s.trapToS c p v).yielded = s.yielded := by simp [State.trapToS]
@[simp] theorem trapToS_extReq (s : State) (c p v : Word) : (s.trapToS c p v).extReq = s.extReq := by simp [State.trapToS]
@[simp] theorem trapToS_fcsr (s : State) (c p v : Word) : (s.trapToS c p v).fcsr = s.fcsr := by simp [State.trapToS]
@[simp] theorem trapToS_medeleg (s : State) (c p v : Word) : (s.trapToS c p v).medeleg = s.medeleg := by simp [State.trapToS]
@[simp] theorem trapToS_mideleg (s : State) (c p v : Word) : (s.trapToS c p v).mideleg = s.mideleg := by simp [State.trapToS]
@[simp] theorem trapToS_mie (s : State) (c p v : Word) : (s.trapToS c p v).mie = s.mie := by simp [State.trapToS]
@[simp] theorem trapToS_mip (s : State) (c p v : Word) : (s.trapToS c p v).mip = s.mip := by simp [State.trapToS]
@[simp] theorem trapToS_mtvec (s : State) (c p v : Word) : (s.trapToS c p v).mtvec = s.mtvec := by simp [State.trapToS]
@[simp] theorem trapToS_mcounteren (s : State) (c p v : Word) : (s.trapToS c p v).mcounteren = s.mcounteren := by simp [State.trapToS]
@[simp] theorem trapToS_mscratch (s : State) (c p v : Word) : (s.trapToS c p v).mscratch = s.mscratch := by simp [State.trapToS]
@[simp] theorem trapToS_mepc (s : State) (c p v : Word) : (s.trapToS c p v).mepc = s.mepc := by simp [State.trapToS]
@[simp] theorem trapToS_mcause (s : State) (c p v : Word) : (s.trapToS c p v).mcause = s.mcause := by simp [State.trapToS]
@[simp] theorem trapToS_mtval (s : State) (c p v : Word) : (s.trapToS c p v).mtval = s.mtval := by simp [State.trapToS]
@[simp] theorem trapToS_stvec (s : State) (c p v : Word) : (s.trapToS c p v).stvec = s.stvec := by simp [State.trapToS]
@[simp] theorem trapToS_scounteren (s : State) (c p v : Word) : (s.trapToS c p v).scounteren = s.scounteren := by simp [State.trapToS]
@[simp] theorem trapToS_sscratch (s : State) (c p v : Word) : (s.trapToS c p v).sscratch = s.sscratch := by simp [State.trapToS]
@[simp] theorem trapToS_satp (s : State) (c p v : Word) : (s.trapToS c p v).satp = s.satp := by simp [State.trapToS]
@[simp] theorem trapToS_mcycle (s : State) (c p v : Word) : (s.trapToS c p v).mcycle = s.mcycle := by simp [State.trapToS]
@[simp] theorem trapToS_minstret (s : State) (c p v : Word) : (s.trapToS c p v).minstret = s.minstret := by simp [State.trapToS]
@[simp] theorem trapToS_ilrsc (s : State) (c p v : Word) : (s.trapToS c p v).ilrsc = s.ilrsc := by simp [State.trapToS]
@[simp] theorem trapToS_mtimecmp (s : State) (c p v : Word) : (s.trapToS c p v).mtimecmp = s.mtimecmp := by simp [State.trapToS]
@[simp] theorem trapToS_tohost (s : State) (c p v : Word) : (s.trapToS c p v).tohost = s.tohost := by simp [State.trapToS]
@[simp] theorem trapToS_fromhost (s : State) (c p v : Word) : (s.trapToS c p v).fromhost = s.fromhost := by simp [State.trapToS]
@[simp] theorem trapToS_fromhostPending (s : State) (c p v : Word) : (s.trapToS c p v).fromhostPending = s.fromhostPending := by simp [State.trapToS]
@[simp] theorem trapToS_consoleOut (s : State) (c p v : Word) : (s.trapToS c p v).consoleOut = s.consoleOut := by simp [State.trapToS]
@[simp] theorem trapToS_consoleIn (s : State) (c p v : Word) : (s.trapToS c p v).consoleIn = s.consoleIn := by simp [State.trapToS]
@[simp] theorem trapToS_mem (s : State) (c p v : Word) : (s.trapToS c p v).mem = s.mem := by simp [State.trapToS]
@[simp] theorem trapToS_mcycleEnd (s : State) (c p v : Word) : (s.trapToS c p v).mcycleEnd = s.mcycleEnd := by simp [State.trapToS]
@[simp] theorem trapToS_hostInputs (s : State) (c p v : Word) : (s.trapToS c p v).hostInputs = s.hostInputs := by simp [State.trapToS]
@[simp] theorem trapToS_cfg (s : State) (c p v : Word) : (s.trapToS c p v).cfg = s.cfg := by simp [State.trapToS]
@[simp] theorem trapToS_scause (s : State) (c p v : Word) :
    (s.trapToS c p v).scause = c := rfl
@[simp] theorem trapToS_sepc (s : State) (c p v : Word) :
    (s.trapToS c p v).sepc = p &&& ~~~1#64 := rfl
@[simp] theorem trapToS_stval (s : State) (c p v : Word) :
    (s.trapToS c p v).stval = v := rfl
@[simp] theorem trapToS_pc (s : State) (c p v : Word) :
    (s.trapToS c p v).pc = trapVector s.stvec c := rfl
@[simp] theorem trapToS_priv (s : State) (c p v : Word) :
    (s.trapToS c p v).priv = .supervisor := by simp [State.trapToS]
@[simp] theorem trapToS_mstatus (s : State) (c p v : Word) :
    (s.trapToS c p v).mstatus = setBit (setBit (setBit s.mstatus 5 s.sieBit) 1 false) 8 (s.priv == .supervisor) := by simp [State.trapToS]
@[simp] theorem trapToM_x (s : State) (c p v : Word) : (s.trapToM c p v).x = s.x := by simp [State.trapToM]
@[simp] theorem trapToM_f (s : State) (c p v : Word) : (s.trapToM c p v).f = s.f := by simp [State.trapToM]
@[simp] theorem trapToM_idle (s : State) (c p v : Word) : (s.trapToM c p v).idle = s.idle := by simp [State.trapToM]
@[simp] theorem trapToM_halted (s : State) (c p v : Word) : (s.trapToM c p v).halted = s.halted := by simp [State.trapToM]
@[simp] theorem trapToM_yielded (s : State) (c p v : Word) : (s.trapToM c p v).yielded = s.yielded := by simp [State.trapToM]
@[simp] theorem trapToM_extReq (s : State) (c p v : Word) : (s.trapToM c p v).extReq = s.extReq := by simp [State.trapToM]
@[simp] theorem trapToM_fcsr (s : State) (c p v : Word) : (s.trapToM c p v).fcsr = s.fcsr := by simp [State.trapToM]
@[simp] theorem trapToM_medeleg (s : State) (c p v : Word) : (s.trapToM c p v).medeleg = s.medeleg := by simp [State.trapToM]
@[simp] theorem trapToM_mideleg (s : State) (c p v : Word) : (s.trapToM c p v).mideleg = s.mideleg := by simp [State.trapToM]
@[simp] theorem trapToM_mie (s : State) (c p v : Word) : (s.trapToM c p v).mie = s.mie := by simp [State.trapToM]
@[simp] theorem trapToM_mip (s : State) (c p v : Word) : (s.trapToM c p v).mip = s.mip := by simp [State.trapToM]
@[simp] theorem trapToM_mtvec (s : State) (c p v : Word) : (s.trapToM c p v).mtvec = s.mtvec := by simp [State.trapToM]
@[simp] theorem trapToM_mcounteren (s : State) (c p v : Word) : (s.trapToM c p v).mcounteren = s.mcounteren := by simp [State.trapToM]
@[simp] theorem trapToM_mscratch (s : State) (c p v : Word) : (s.trapToM c p v).mscratch = s.mscratch := by simp [State.trapToM]
@[simp] theorem trapToM_stvec (s : State) (c p v : Word) : (s.trapToM c p v).stvec = s.stvec := by simp [State.trapToM]
@[simp] theorem trapToM_scounteren (s : State) (c p v : Word) : (s.trapToM c p v).scounteren = s.scounteren := by simp [State.trapToM]
@[simp] theorem trapToM_sscratch (s : State) (c p v : Word) : (s.trapToM c p v).sscratch = s.sscratch := by simp [State.trapToM]
@[simp] theorem trapToM_sepc (s : State) (c p v : Word) : (s.trapToM c p v).sepc = s.sepc := by simp [State.trapToM]
@[simp] theorem trapToM_scause (s : State) (c p v : Word) : (s.trapToM c p v).scause = s.scause := by simp [State.trapToM]
@[simp] theorem trapToM_stval (s : State) (c p v : Word) : (s.trapToM c p v).stval = s.stval := by simp [State.trapToM]
@[simp] theorem trapToM_satp (s : State) (c p v : Word) : (s.trapToM c p v).satp = s.satp := by simp [State.trapToM]
@[simp] theorem trapToM_mcycle (s : State) (c p v : Word) : (s.trapToM c p v).mcycle = s.mcycle := by simp [State.trapToM]
@[simp] theorem trapToM_minstret (s : State) (c p v : Word) : (s.trapToM c p v).minstret = s.minstret := by simp [State.trapToM]
@[simp] theorem trapToM_ilrsc (s : State) (c p v : Word) : (s.trapToM c p v).ilrsc = s.ilrsc := by simp [State.trapToM]
@[simp] theorem trapToM_mtimecmp (s : State) (c p v : Word) : (s.trapToM c p v).mtimecmp = s.mtimecmp := by simp [State.trapToM]
@[simp] theorem trapToM_tohost (s : State) (c p v : Word) : (s.trapToM c p v).tohost = s.tohost := by simp [State.trapToM]
@[simp] theorem trapToM_fromhost (s : State) (c p v : Word) : (s.trapToM c p v).fromhost = s.fromhost := by simp [State.trapToM]
@[simp] theorem trapToM_fromhostPending (s : State) (c p v : Word) : (s.trapToM c p v).fromhostPending = s.fromhostPending := by simp [State.trapToM]
@[simp] theorem trapToM_consoleOut (s : State) (c p v : Word) : (s.trapToM c p v).consoleOut = s.consoleOut := by simp [State.trapToM]
@[simp] theorem trapToM_consoleIn (s : State) (c p v : Word) : (s.trapToM c p v).consoleIn = s.consoleIn := by simp [State.trapToM]
@[simp] theorem trapToM_mem (s : State) (c p v : Word) : (s.trapToM c p v).mem = s.mem := by simp [State.trapToM]
@[simp] theorem trapToM_mcycleEnd (s : State) (c p v : Word) : (s.trapToM c p v).mcycleEnd = s.mcycleEnd := by simp [State.trapToM]
@[simp] theorem trapToM_hostInputs (s : State) (c p v : Word) : (s.trapToM c p v).hostInputs = s.hostInputs := by simp [State.trapToM]
@[simp] theorem trapToM_cfg (s : State) (c p v : Word) : (s.trapToM c p v).cfg = s.cfg := by simp [State.trapToM]
@[simp] theorem trapToM_mcause (s : State) (c p v : Word) :
    (s.trapToM c p v).mcause = c := rfl
@[simp] theorem trapToM_mepc (s : State) (c p v : Word) :
    (s.trapToM c p v).mepc = p &&& ~~~1#64 := rfl
@[simp] theorem trapToM_mtval (s : State) (c p v : Word) :
    (s.trapToM c p v).mtval = v := rfl
@[simp] theorem trapToM_pc (s : State) (c p v : Word) :
    (s.trapToM c p v).pc = trapVector s.mtvec c := rfl
@[simp] theorem trapToM_priv (s : State) (c p v : Word) :
    (s.trapToM c p v).priv = .machine := by simp [State.trapToM]
@[simp] theorem trapToM_mstatus (s : State) (c p v : Word) :
    (s.trapToM c p v).mstatus = setField2 (setBit (setBit s.mstatus 7 s.mieBit) 3 false) 11 s.priv.bits := by simp [State.trapToM]

/-! ## The values a trap return writes -/

@[simp] theorem returnFromM_pc (s : State) : s.returnFromM.pc = s.mepc := rfl
@[simp] theorem returnFromM_priv (s : State) : s.returnFromM.priv = s.mpp := by simp [State.returnFromM]
@[simp] theorem returnFromS_pc (s : State) : s.returnFromS.pc = s.sepc := rfl
@[simp] theorem returnFromS_priv (s : State) : s.returnFromS.priv = s.spp := by simp [State.returnFromS]

theorem returnFromM_mstatus (s : State) : s.returnFromM.mstatus =
    if s.mpp = .machine then setField2 (setBit (setBit s.mstatus 3 s.mpieBit) 7 true) 11 0#2
    else setBit (setField2 (setBit (setBit s.mstatus 3 s.mpieBit) 7 true) 11 0#2) 17 false := by
  simp [State.returnFromM]

theorem returnFromS_mstatus (s : State) : s.returnFromS.mstatus =
    setBit (setBit (setBit (setBit s.mstatus 1 s.spieBit) 5 true) 8 false) 17 false := by
  simp [State.returnFromS]

/-! ## Register files -/

@[simp] theorem getX_zero (s : State) : s.getX 0#5 = 0#64 := by simp [State.getX]

/-- A read after a write of an integer register. -/
theorem getX_setX (s : State) (r q : Reg) (v : Word) :
    (s.setX r v).getX q = if q = 0#5 then 0#64 else if q = r then v else s.getX q := by
  unfold State.getX State.setX
  by_cases hq : q = 0#5
  · simp [hq]
  · by_cases hr : r = 0#5
    · have h : q ≠ r := fun h => hq (h.trans hr)
      simp [hq, hr]
    · by_cases h : q = r
      · subst h; simp [hq]
      · have h' : r.toNat ≠ q.toNat := fun e => h (BitVec.eq_of_toNat_eq e.symm)
        simp [hq, hr, h, h']

/-- A read after a write of a floating-point register. -/
theorem getF_setF (s : State) (r q : Reg) (v : Word) : (s.setF r v).getF q = if q = r then v else s.getF q := by
  unfold State.getF State.setF
  by_cases h : q = r
  · subst h; simp
  · have h' : r.toNat ≠ q.toNat := fun e => h (BitVec.eq_of_toNat_eq e.symm)
    simp [h, h']

/-- Integer registers are read from the field `x` alone. -/
theorem getX_congr {s t : State} (h : t.x = s.x) (r : Reg) : t.getX r = s.getX r := by simp [State.getX, h]

/-- Floating-point registers are read from the field `f` alone. -/
theorem getF_congr {s t : State} (h : t.f = s.f) (r : Reg) : t.getF r = s.getF r := by simp [State.getF, h]

@[simp] theorem getX_setF (s : State) (r q : Reg) (v : Word) : (s.setF r v).getX q = s.getX q := rfl
@[simp] theorem getX_retire (s : State) (n : Word) (q : Reg) : (s.retire n).getX q = s.getX q := rfl
@[simp] theorem getX_retireTo (s : State) (n : Word) (q : Reg) : (s.retireTo n).getX q = s.getX q := rfl
@[simp] theorem getF_retire (s : State) (n : Word) (q : Reg) : (s.retire n).getF q = s.getF q := rfl
@[simp] theorem getF_setX (s : State) (r q : Reg) (v : Word) : (s.setX r v).getF q = s.getF q := by
  simp [State.getF]
@[simp] theorem getX_accrue (s : State) (fl : FFlags) (q : Reg) : (s.accrue fl).getX q = s.getX q := by
  simp [State.getX]
@[simp] theorem getF_accrue (s : State) (fl : FFlags) (q : Reg) : (s.accrue fl).getF q = s.getF q := by
  simp [State.getF]

end Sys2Proof.Machine
end

