-- ==== Sys2Proof/Laws/Access.lean ====
section
/-! SUPPORT. Translation and the access primitives: what each can do, said once. -/

namespace Sys2Proof.Machine

open Sys2Proof

/-! ## What translation may touch -/

/-- Only memory, the reservation and the TLBs may differ: the frame of every walk and of every translation. -/
def OnlyWalk (s t : State) : Prop :=
  t = { s with mem := t.mem, ilrsc := t.ilrsc, tlbRead := t.tlbRead, tlbWrite := t.tlbWrite, tlbCode := t.tlbCode }

theorem OnlyWalk.refl (s : State) : OnlyWalk s s := rfl

theorem OnlyWalk.trans {s t u : State} (h : OnlyWalk s t) (h' : OnlyWalk t u) : OnlyWalk s u := by
  rw [OnlyWalk] at *; rw [h']; rw [h]

theorem OnlyWalk.storeMem (s : State) (a n : Nat) (v : Word) : OnlyWalk s (s.storeMem a n v) := rfl

theorem OnlyWalk.fillTlb (s : State) (acc : Access) (va pa : Word) : OnlyWalk s (s.fillTlb acc va pa) := by
  unfold State.fillTlb
  repeat' split
  all_goals first | rfl | (cases acc <;> rfl)

theorem OnlyWalk.flushTlbs (s : State) : OnlyWalk s s.flushTlbs := rfl

section
variable {s t : State} (h : OnlyWalk s t)
include h
theorem OnlyWalk.x : t.x = s.x := by rw [h]
theorem OnlyWalk.f : t.f = s.f := by rw [h]
theorem OnlyWalk.pc : t.pc = s.pc := by rw [h]
theorem OnlyWalk.priv : t.priv = s.priv := by rw [h]
theorem OnlyWalk.idle : t.idle = s.idle := by rw [h]
theorem OnlyWalk.halted : t.halted = s.halted := by rw [h]
theorem OnlyWalk.yielded : t.yielded = s.yielded := by rw [h]
theorem OnlyWalk.fcsr : t.fcsr = s.fcsr := by rw [h]
theorem OnlyWalk.mstatus : t.mstatus = s.mstatus := by rw [h]
theorem OnlyWalk.mip : t.mip = s.mip := by rw [h]
theorem OnlyWalk.mie : t.mie = s.mie := by rw [h]
theorem OnlyWalk.satp : t.satp = s.satp := by rw [h]
theorem OnlyWalk.minstret : t.minstret = s.minstret := by rw [h]
theorem OnlyWalk.mcycle : t.mcycle = s.mcycle := by rw [h]
theorem OnlyWalk.cfg : t.cfg = s.cfg := by rw [h]
theorem OnlyWalk.getX (r : Reg) : t.getX r = s.getX r := getX_congr h.x r
theorem OnlyWalk.getF (r : Reg) : t.getF r = s.getF r := getF_congr h.f r
theorem OnlyWalk.effPriv (acc : Access) : t.effPriv acc = s.effPriv acc := by rw [h]; rfl
theorem OnlyWalk.bare (acc : Access) : t.bare acc = s.bare acc := by rw [h]; rfl
end

/-! ## The walk -/

/-- The leaf that a successful walk ends at: where its entry lies, what it holds, and that it permits the access. -/
structure Leaf (s : State) (va : Word) (acc : Access) (eff : Priv) (pa : Word) (s1 : State) (i a : Nat) (pte : Word)
    (e : PmaEntry) : Prop where
  found     : findPma s.cfg.pma a 8 = some e
  memory    : e.kind = .memory
  readable  : e.r = true
  value     : pte = s.loadMem a 8
  valid     : pte.getLsbD 0 = true
  noWriteOnly : ¬(pte.getLsbD 1 = false ∧ pte.getLsbD 2 = true)
  leaf      : pte.getLsbD 1 = true ∨ pte.getLsbD 3 = true
  reserved  : slice pte 54 10 = 0#10
  permitted : permitted s pte acc eff = true
  aligned   : ptePpn pte % 2 ^ (9 * i) = 0
  address   : pa = leafAddress pte va i
  after     : (pte &&& neededBits acc = neededBits acc ∧ s1 = s) ∨
    (e.w = true ∧ s1 = s.storeMem a 8 (pte ||| neededBits acc))

/-- Everything a walk can answer: a fault that changes nothing, or the address through a permitting leaf, which the pointers
from the first table lead to. -/
theorem walkFrom_cases (s : State) (va : Word) (acc : Access) (eff : Priv) (n a : Nat) :
    (∃ e, walkFrom s va acc eff n a = .raised e va s ∧ (e = acc.pageFault ∨ e = acc.accessFault)) ∨
      ∃ pa s1 i b pte e, walkFrom s va acc eff n a = .ok pa s1 ∧ Descends s va n a (i + 1) b ∧
        Leaf s va acc eff pa s1 i (b + vpn va i * 8) pte e := by
  induction n generalizing a with
  | zero => exact .inl ⟨_, rfl, .inl rfl⟩
  | succ n ih =>
    unfold walkFrom walkLevel
    split
    · exact .inl ⟨_, rfl, .inr rfl⟩
    next e he =>
      split
      · exact .inl ⟨_, rfl, .inr rfl⟩
      next hmem =>
        simp only [ne_eq, not_or, Decidable.not_not, Bool.not_eq_false] at hmem
        dsimp only
        split
        · exact .inl ⟨_, rfl, .inl rfl⟩
        next hv =>
          have hv0 : (s.loadMem (a + vpn va n * 8) 8).getLsbD 0 = true := by simpa using (not_or.mp hv).1
          split
          · exact .inl ⟨_, rfl, .inl rfl⟩
          next hr =>
            split
            next hl =>
              unfold walkLeaf
              split
              · exact .inl ⟨_, rfl, .inl rfl⟩
              next hp =>
                split
                · exact .inl ⟨_, rfl, .inl rfl⟩
                next ha =>
                  split
                  next hb =>
                    exact .inr ⟨_, _, n, a, _, e, rfl, .here .., he, hmem.1, hmem.2, rfl, hv0, (not_or.mp hv).2, hl,
                      by simpa using hr, by simpa using hp, by simpa using ha, rfl, .inl ⟨hb, rfl⟩⟩
                  next hb =>
                    split
                    · exact .inl ⟨_, rfl, .inr rfl⟩
                    next hw =>
                      exact .inr ⟨_, _, n, a, _, e, rfl, .here .., he, hmem.1, hmem.2, rfl, hv0, (not_or.mp hv).2, hl,
                        by simpa using hr, by simpa using hp, by simpa using ha, rfl, .inr ⟨by simpa using hw, rfl⟩⟩
            next hl =>
              rcases ih (ptePpn (s.loadMem (a + vpn va n * 8) 8) * 4096) with h | ⟨pa, s1, i, b, pte, e, h, hd, hl'⟩
              · exact .inl h
              · simp only [not_or, Bool.not_eq_true] at hl
                have hw := (not_or.mp hv).2
                rw [hl.1] at hw
                exact .inr ⟨pa, s1, i, b, pte, e, h, .down _ _ _ _ hv0 hl.1 (by simpa using hw) hl.2 hd, hl'⟩

/-- Everything `walk` can answer. -/
theorem walk_cases (s : State) (va : Word) (acc : Access) (eff : Priv) :
    (∃ e, walk s va acc eff = .raised e va s ∧ (e = acc.pageFault ∨ e = acc.accessFault)) ∨
      ∃ pa s1 i b pte e, walk s va acc eff = .ok pa s1 ∧
        Descends s va (levelsOf s.satpMode) (s.satpPpn.toNat * 4096) (i + 1) b ∧
        Leaf s va acc eff pa s1 i (b + vpn va i * 8) pte e := by
  unfold walk
  dsimp only
  split
  · exact .inl ⟨_, rfl, .inl rfl⟩
  · exact walkFrom_cases ..

theorem Leaf.onlyWalk {s : State} {va : Word} {acc : Access} {eff : Priv} {pa : Word} {s1 : State} {i a : Nat} {pte : Word}
    {e : PmaEntry} (h : Leaf s va acc eff pa s1 i a pte e) : OnlyWalk s s1 := by
  rcases h.after with ⟨-, rfl⟩ | ⟨-, rfl⟩
  · exact OnlyWalk.refl _
  · exact OnlyWalk.storeMem ..

/-! ## Translation -/

/-- Everything a translation can answer. -/
theorem translate_cases (s : State) (va : Word) (acc : Access) :
    (s.bare acc = true ∧ translate s va acc = .ok va s) ∨
      (s.bare acc = false ∧
        ((∃ e, (s.tlb acc).hit va = some e ∧ translate s va acc = .ok (e.paddrPage ||| (va &&& 0xFFF#64)) s) ∨
          ((s.tlb acc).hit va = none ∧
            ((∃ e, translate s va acc = .raised e va s ∧ (e = acc.pageFault ∨ e = acc.accessFault)) ∨
              ∃ pa s1 i b pte e, walk s va acc (s.effPriv acc) = .ok pa s1 ∧ Leaf s va acc (s.effPriv acc) pa s1 i b pte e ∧
                translate s va acc = .ok pa (s1.fillTlb acc va pa))))) := by
  unfold translate
  split
  next hb => exact .inl ⟨hb, rfl⟩
  next hb =>
    refine .inr ⟨by simpa using hb, ?_⟩
    split
    next e he => exact .inl ⟨e, he, rfl⟩
    next he =>
      refine .inr ⟨he, ?_⟩
      rcases walk_cases s va acc (s.effPriv acc) with ⟨e, h, hk⟩ | ⟨pa, s1, i, b, pte, e, h, -, hl⟩
      · exact .inl ⟨e, by rw [h]; rfl, hk⟩
      · exact .inr ⟨pa, s1, i, _, pte, e, h, hl, by rw [h]; rfl⟩

/-- A translation that raises raises the page or access fault of its kind with the virtual address, and changes nothing. -/
theorem translate_raised {s s1 : State} {va tval : Word} {acc : Access} {e : Exc} (h : translate s va acc = .raised e tval s1) :
    s1 = s ∧ tval = va ∧ (e = acc.pageFault ∨ e = acc.accessFault) := by
  rcases translate_cases s va acc with ⟨-, h'⟩ | ⟨-, ⟨_, -, h'⟩ | ⟨-, ⟨e', h', hk⟩ | ⟨_, _, _, _, _, _, -, -, h'⟩⟩⟩ <;>
    rw [h'] at h <;> cases h
  exact ⟨rfl, rfl, hk⟩

/-- A translation that succeeds touches only memory, the reservation and the TLBs. -/
theorem translate_onlyWalk {s s1 : State} {va pa : Word} {acc : Access} (h : translate s va acc = .ok pa s1) :
    OnlyWalk s s1 := by
  rcases translate_cases s va acc with ⟨-, h'⟩ | ⟨-, ⟨_, -, h'⟩ | ⟨-, ⟨e', h', -⟩ | ⟨_, _, _, _, _, _, -, hl, h'⟩⟩⟩ <;>
    rw [h'] at h <;> cases h
  · exact OnlyWalk.refl _
  · exact OnlyWalk.refl _
  · exact hl.onlyWalk.trans (OnlyWalk.fillTlb ..)

/-! ## Accesses that reach memory -/

theorem physRead_memory {s : State} {e : PmaEntry} (h : e.kind = .memory) (a n : Nat) :
    physRead s e a n = some (s.loadMem a n) := by rw [physRead, h]

theorem physWrite_memory {s : State} {e : PmaEntry} (h : e.kind = .memory) (a n : Nat) (v : Word) :
    physWrite s e a n v = some (s.storeMem a n v) := by rw [physWrite, h]

/-- A load that reaches memory. -/
theorem memRead_reaches {s s1 : State} {va pa : Word} {n : Nat} {e : PmaEntry} (h : Reaches s va n .load pa e s1) :
    memRead s va n = .ok (s1.loadMem pa.toNat n) s1 := by
  have hr : e.r = true := h.allowed
  rw [memRead, if_neg (by simp [h.aligned]), h.translated, Result.bind]
  simp only [h.found, hr, physRead_memory h.memory, Bool.true_eq_false, if_false]

/-- A store that reaches memory. -/
theorem memWrite_reaches {s s1 : State} {va pa : Word} {n : Nat} {e : PmaEntry} (h : Reaches s va n .store pa e s1) (v : Word) :
    memWrite s va n v = .ok () (s1.storeMem pa.toNat n v) := by
  have hw : e.w = true := h.allowed
  rw [memWrite, if_neg (by simp [h.aligned]), h.translated, Result.bind]
  simp only [h.found, hw, physWrite_memory h.memory, Bool.true_eq_false, if_false]

/-- An atomic access that reaches memory that can be read. -/
theorem atomicAddr_reaches {s s1 : State} {va pa : Word} {n : Nat} {acc : Access} {e : PmaEntry}
    (h : Reaches s va n acc pa e s1) (hr : e.r = true) : atomicAddr s va n acc = .ok pa s1 := by
  have hw : ¬(acc = .store ∧ e.w = false) := by
    rintro ⟨rfl, hw⟩
    have : e.w = true := h.allowed
    simp [hw] at this
  rw [atomicAddr, if_neg (by simp [h.aligned]), h.translated, Result.bind]
  simp [h.found, h.memory, hr, hw]

/-- Everything a read can answer: a value after a translation, or an exception with nothing but a translation done. -/
theorem memRead_cases (s : State) (va : Word) (n : Nat) :
    (∃ v pa s1, memRead s va n = .ok v s1 ∧ translate s va .load = .ok pa s1) ∨
      ∃ e s1, memRead s va n = .raised e va s1 ∧ (s1 = s ∨ ∃ pa, translate s va .load = .ok pa s1) := by
  unfold memRead
  split
  · exact .inr ⟨_, _, rfl, .inl rfl⟩
  · cases h : translate s va .load with
    | raised e tval s1 =>
      obtain ⟨rfl, rfl, -⟩ := translate_raised h
      exact .inr ⟨e, _, rfl, .inl rfl⟩
    | ok pa s1 =>
      rw [Result.bind]
      split
      · exact .inr ⟨_, _, rfl, .inr ⟨pa, rfl⟩⟩
      · split
        · exact .inr ⟨_, _, rfl, .inr ⟨pa, rfl⟩⟩
        · split
          · exact .inl ⟨_, pa, _, rfl, rfl⟩
          · exact .inr ⟨_, _, rfl, .inr ⟨pa, rfl⟩⟩

/-- Everything an atomic's address check can answer. -/
theorem atomicAddr_cases (s : State) (va : Word) (n : Nat) (acc : Access) :
    (∃ pa s1, atomicAddr s va n acc = .ok pa s1 ∧ translate s va acc = .ok pa s1) ∨
      ∃ e s1, atomicAddr s va n acc = .raised e va s1 ∧ (s1 = s ∨ ∃ pa, translate s va acc = .ok pa s1) := by
  unfold atomicAddr
  split
  · exact .inr ⟨_, _, rfl, .inl rfl⟩
  · cases h : translate s va acc with
    | raised e tval s1 =>
      obtain ⟨rfl, rfl, -⟩ := translate_raised h
      exact .inr ⟨e, _, rfl, .inl rfl⟩
    | ok pa s1 =>
      rw [Result.bind]
      split
      · exact .inr ⟨_, _, rfl, .inr ⟨pa, rfl⟩⟩
      · split
        · exact .inr ⟨_, _, rfl, .inr ⟨pa, rfl⟩⟩
        · exact .inl ⟨pa, _, rfl, rfl⟩

/-- Everything a write can do: it raises with nothing but a translation done, or a store to memory or to a device follows the
translation. -/
theorem memWrite_cases (s : State) (va : Word) (n : Nat) (v : Word) :
    (∃ e s1, memWrite s va n v = .raised e va s1 ∧ (s1 = s ∨ ∃ pa, translate s va .store = .ok pa s1)) ∨
      ∃ s1 s2 pa e, translate s va .store = .ok pa s1 ∧ findPma s1.cfg.pma pa.toNat n = some e ∧
        physWrite s1 e pa.toNat n v = some s2 ∧ memWrite s va n v = .ok () s2 := by
  unfold memWrite
  split
  · exact .inl ⟨_, _, rfl, .inl rfl⟩
  · cases h : translate s va .store with
    | raised e tval s1 =>
      obtain ⟨rfl, rfl, -⟩ := translate_raised h
      exact .inl ⟨e, _, rfl, .inl rfl⟩
    | ok pa s1 =>
      rw [Result.bind]
      split
      · exact .inl ⟨_, _, rfl, .inr ⟨pa, rfl⟩⟩
      next e he =>
        split
        · exact .inl ⟨_, _, rfl, .inr ⟨pa, rfl⟩⟩
        · split
          next s2 hs2 => exact .inr ⟨s1, s2, pa, e, rfl, he, hs2, rfl⟩
          · exact .inl ⟨_, _, rfl, .inr ⟨pa, rfl⟩⟩

/-! ## Fetching -/

theorem fetchParcel_cases (s : State) (va : Word) :
    (∃ p s1, fetchParcel s va = .ok p s1 ∧ OnlyWalk s s1) ∨
      ∃ e s1, fetchParcel s va = .raised e va s1 ∧ OnlyWalk s s1 := by
  unfold fetchParcel
  cases h : translate s va .fetch with
  | raised e tval s1 =>
    obtain ⟨rfl, rfl, -⟩ := translate_raised h
    exact .inr ⟨e, _, rfl, OnlyWalk.refl _⟩
  | ok pa s1 =>
    have hf := translate_onlyWalk h
    rw [Result.bind]
    split
    · exact .inr ⟨_, _, rfl, hf⟩
    · split
      · exact .inr ⟨_, _, rfl, hf⟩
      · exact .inl ⟨_, _, rfl, hf⟩

/-- The frame of a fetch. -/
theorem fetch_cases (s : State) :
    (∃ w s1, fetch s = .ok w s1 ∧ OnlyWalk s s1) ∨ ∃ e tval s1, fetch s = .raised e tval s1 ∧ OnlyWalk s s1 := by
  unfold fetch
  split
  · exact .inr ⟨_, _, _, rfl, OnlyWalk.refl s⟩
  · rcases fetchParcel_cases s s.pc with ⟨p, s1, h, hf⟩ | ⟨e, s1, h, hf⟩
    · rw [h, Result.bind]
      split
      · exact .inl ⟨_, _, rfl, hf⟩
      · rcases fetchParcel_cases s1 (s.pc + 2#64) with ⟨p', s2, h', hf'⟩ | ⟨e', s2, h', hf'⟩
        · rw [h']; exact .inl ⟨_, _, rfl, hf.trans hf'⟩
        · rw [h']; exact .inr ⟨_, _, _, rfl, hf.trans hf'⟩
    · rw [h]; exact .inr ⟨_, _, _, rfl, hf⟩

/-! ## Numbers in memory -/

/-- A number whose bytes stand in memory is what a load reads. -/
theorem load_of_bytes {s : State} {a n v : Nat} (h : BytesAre s a n v) (hv : v < 256 ^ n) : s.mem.load a n = v := by
  induction n generalizing a v with
  | zero => simp at hv; simp [Memory.load, hv]
  | succ n ih =>
    have h0 := h 0 (Nat.succ_pos n)
    have hr : s.mem.load (a + 1) n = v / 256 := by
      apply ih
      · intro k hk
        have := h (k + 1) (by omega)
        rw [show a + 1 + k = a + (k + 1) by omega, this, Nat.pow_succ, Nat.mul_comm, ← Nat.div_div_eq_div_mul]
      · rw [Nat.div_lt_iff_lt_mul (by decide)]; rwa [Nat.pow_succ] at hv
    rw [Memory.load, hr]
    simp only [Nat.add_zero, Nat.pow_zero, Nat.div_one] at h0
    omega

/-- After a store, the stored bytes are those of the value. -/
theorem storeMem_bytes {s : State} (hm : s.mem.wf = true) (a n : Nat) (v : Word) : BytesAre (s.storeMem a n v) a n v.toNat := by
  intro k hk
  rw [storeMem_mem, Memory.byte_store hm, if_pos (by omega), Nat.add_sub_cancel_left]
  simp

/-- After a store, every other byte is as before. -/
theorem storeMem_outside {s : State} (hm : s.mem.wf = true) (a n : Nat) (v : Word) : SameOutside s (s.storeMem a n v) a n := by
  intro b hb
  rw [storeMem_mem, Memory.byte_store hm, if_neg (by omega)]

/-- A store clears an overlapping reservation and keeps any other (44_a_atomics R522). -/
theorem storeMem_reservation (s : State) (a n : Nat) (v : Word) (hn : 0 < n) :
    ReservationAfterStore s (s.storeMem a n v) a n := by
  constructor
  · intro h; rw [storeMem_ilrsc, h]; rfl
  · intro r h hsz
    rw [storeMem_ilrsc, h, breakReservation]
    constructor
    · rintro ⟨b, hb⟩
      rw [if_pos]
      simp only [overlaps, Bool.and_eq_true, decide_eq_true_eq]; omega
    · intro hb
      rw [if_neg]
      simp only [overlaps, Bool.and_eq_true, decide_eq_true_eq]
      rintro ⟨h1, h2⟩
      exact hb (by
        by_cases h3 : a ≤ r.paddr.toNat
        · exact ⟨r.paddr.toNat, by omega⟩
        · exact ⟨a, by omega⟩)

@[simp] theorem fillTlb_mem (s : State) (acc : Access) (va pa : Word) : (s.fillTlb acc va pa).mem = s.mem := by
  unfold State.fillTlb
  repeat' split
  all_goals first | rfl | (cases acc <;> rfl)

@[simp] theorem fillTlb_ilrsc (s : State) (acc : Access) (va pa : Word) : (s.fillTlb acc va pa).ilrsc = s.ilrsc := by
  unfold State.fillTlb
  repeat' split
  all_goals first | rfl | (cases acc <;> rfl)

/-- A walk keeps the canonical form of memory. -/
theorem translate_wf {s s1 : State} {va pa : Word} {acc : Access} (h : translate s va acc = .ok pa s1) (hm : s.mem.wf = true) :
    s1.mem.wf = true := by
  rcases translate_cases s va acc with ⟨-, h'⟩ | ⟨-, ⟨_, -, h'⟩ | ⟨-, ⟨e', h', -⟩ | ⟨_, _, _, _, _, _, -, hl, h'⟩⟩⟩ <;>
    rw [h'] at h <;> cases h
  · exact hm
  · exact hm
  · rw [fillTlb_mem]
    rcases hl.after with ⟨-, rfl⟩ | ⟨-, rfl⟩
    · exact hm
    · exact Memory.store_wf hm ..

end Sys2Proof.Machine
end

