-- ==== Sys2Proof/Laws/Completion.lean ====
section
/-! SUPPORT. What each shared way of completing an instruction does, in the words of Safety.lean: a register written, a jump, a
load, a store, an atomic, a floating-point result, an exception. -/

namespace Sys2Proof.Machine

open Sys2Proof

/-! ## Integer results and jumps -/

theorem setX_becomes (s t : State) (rd : Reg) (v : Word) (h : t.x = (s.setX rd v).x) : XBecomes rd v s t := by
  refine ⟨getX_zero t, fun hr => ?_, fun r hr => ?_⟩
  · rw [getX_congr h, getX_setX, if_neg hr, if_pos rfl]
  · rw [getX_congr h, getX_setX, if_neg hr]
    split
    · next h0 => rw [h0, getX_zero]
    · rfl

theorem setX_only (s : State) (rd : Reg) (v : Word) : s.setX rd v = { s with x := (s.setX rd v).x } := by
  unfold State.setX; split <;> rfl

/-- A write of `x[rd]` with the next instruction at `next`. -/
theorem writesXAt_of {i : Instr} {s : State} {rd : Reg} {v next : Word}
    (h : exec i s = .next ((s.setX rd v).retireTo next)) : WritesXAt i s next rd v :=
  ⟨_, h, setX_becomes _ _ _ _ rfl, ⟨rfl, by simp⟩, fun a => by simp, by unfold OnlyX State.setX; split <;> rfl⟩

/-- `writeX` writes `x[rd]`, retires, and does nothing else. -/
theorem writesX_of {i : Instr} {s : State} {len v : Word} {rd : Reg} (h : exec i s = writeX len rd v s) :
    WritesX i s len rd v :=
  writesXAt_of (h.trans (by rw [writeX, State.retire, setX_pc]))

/-- `jump` links and goes to its target. -/
theorem writesXAt_of_jump {i : Instr} {s : State} {len target : Word} {rd : Reg} (h : exec i s = jump len rd target s) :
    WritesXAt i s target rd (s.pc + len) := writesXAt_of h

/-- Retiring at `next` does nothing else. -/
theorem goesTo_of {i : Instr} {s : State} {next : Word} (h : exec i s = .next (s.retireTo next)) : GoesTo i s next :=
  ⟨_, h, ⟨rfl, rfl⟩, fun _ => rfl, fun _ => rfl, rfl⟩

theorem goesTo_of_branch {i : Instr} {s : State} {len off : Word} {taken : Bool} (h : exec i s = branch len taken off s) :
    GoesTo i s (s.pc + if taken then off else len) := goesTo_of h

/-! ## Floating-point results -/

theorem accrue_only (s : State) (fl : FFlags) :
    s.accrue fl = { s with fcsr := (s.accrue fl).fcsr, mstatus := (s.accrue fl).mstatus } := by
  unfold State.accrue; split <;> rfl

theorem accrue_flags (s : State) (fl : FFlags) : FlagsAccrue fl s (s.accrue fl) := by
  unfold FlagsAccrue State.accrue
  split
  · next h => subst h; simp
  · constructor <;>
    · apply BitVec.eq_of_getLsbD_eq
      intro k hk
      simp only [State.fflags, State.frm, slice, BitVec.getLsbD_or, BitVec.getLsbD_extractLsb']
      interval_cases k <;> simp

theorem fs_of_dirty (m : Word) : slice (m ||| 0x6000#64) 13 2 = 3#2 := by
  apply BitVec.eq_of_getLsbD_eq
  intro k hk
  simp only [slice, BitVec.getLsbD_extractLsb', BitVec.getLsbD_or]
  interval_cases k <;> simp

theorem dirty_elsewhere (m : Word) (k : Nat) (h13 : k ≠ 13) (h14 : k ≠ 14) :
    (m ||| 0x6000#64).getLsbD k = m.getLsbD k := by
  have h : (0x6000#64).getLsbD k = false := by
    by_cases hk : k < 64
    · interval_cases k <;> first | rfl | contradiction
    · exact BitVec.getLsbD_of_ge _ _ (by omega)
  rw [BitVec.getLsbD_or, h, Bool.or_false]

theorem accrue_mstatus_cases (s : State) (fl : FFlags) :
    (s.accrue fl).mstatus = if fl = 0#5 then s.mstatus else s.mstatus ||| 0x6000#64 := by
  unfold State.accrue; split <;> rfl

theorem accrue_fs (s : State) (fl : FFlags) : FsAfter (fl != 0#5) s (s.accrue fl) := by
  rw [FsAfter, accrue_mstatus_cases]
  by_cases h : fl = 0#5
  · simp [h]
  · simp only [h, if_false, bne_iff_ne, ne_eq, not_false_eq_true, if_true]
    exact ⟨fs_of_dirty _, fun k => dirty_elsewhere _ k⟩

/-- `writeFp` adds the flags, writes `f[rd]`, makes `FS` Dirty and retires. -/
theorem writesF_of {i : Instr} {s : State} {rd : Reg} {v : Word} {fl : FFlags} (h : exec i s = writeFp rd (v, fl) s) :
    WritesF i s 4#64 rd v fl := by
  refine ⟨_, h, ⟨?_, fun r hr => ?_⟩, ?_, ?_, ?_, fun r => ?_, fun a => ?_, ?_⟩
  · rw [getF_retire, getF_setF, if_pos rfl]
  · rw [getF_retire, getF_setF, if_neg hr, getF_accrue]
  · exact accrue_flags s fl
  · constructor
    · exact fs_of_dirty _
    · intro k h13 h14
      rw [show (((s.accrue fl).setF rd v).retire 4#64).mstatus = (s.accrue fl).mstatus ||| 0x6000#64 from rfl,
        dirty_elsewhere _ _ h13 h14, (accrue_fs s fl).2 k h13 h14]
  · exact ⟨by simp, by simp⟩
  · rw [getX_retire, getX_setF, getX_accrue]
  · simp
  · unfold OnlyF; unfold State.accrue; split <;> rfl

/-- `writeFpX` adds the flags, writes `x[rd]` and retires. -/
theorem writesXFlags_of {i : Instr} {s : State} {rd : Reg} {r : Word × FFlags} (h : exec i s = writeFpX rd r s) :
    WritesXFlags i s 4#64 rd r.1 r.2 := by
  refine ⟨_, h, ?_, ?_, ?_, ⟨by simp, by simp⟩, fun a => by simp, ?_⟩
  · have := setX_becomes (s.accrue r.2) (((s.accrue r.2).setX rd r.1).retire 4#64) rd r.1 rfl
    exact ⟨this.1, this.2.1, fun q hq => (this.2.2 q hq).trans (getX_accrue ..)⟩
  · simpa [FlagsAccrue, State.fflags, State.frm] using accrue_flags s r.2
  · simpa [FsAfter] using accrue_fs s r.2
  · unfold OnlyXFlags State.accrue State.setX
    split <;> split <;> rfl

theorem requireFp_on {i : Instr} {s : State} (h : s.fs ≠ 0#2) (k : StepOutcome) : requireFp i s k = k := by
  rw [requireFp, if_pos (by simpa [State.fpEnabled] using h)]

theorem requireFp_off {i : Instr} {s : State} (h : s.fs = 0#2) (k : StepOutcome) : requireFp i s k = illegal i s := by
  rw [requireFp, if_neg (by simp [State.fpEnabled, h])]

theorem requireFpRm_on {i : Instr} {s : State} {rm : RmField} {m : RoundingMode} (h : s.fs ≠ 0#2)
    (hm : s.roundingMode rm = some m) (k : RoundingMode → StepOutcome) : requireFpRm i rm s k = k m := by
  rw [requireFpRm, requireFp_on h, hm]

theorem requireFpRm_off {i : Instr} {s : State} {rm : RmField} (h : s.fs = 0#2) (k : RoundingMode → StepOutcome) :
    requireFpRm i rm s k = illegal i s := requireFp_off h _

theorem requireFpRm_reserved {i : Instr} {s : State} {rm : RmField} (hm : s.roundingMode rm = none)
    (k : RoundingMode → StepOutcome) : requireFpRm i rm s k = illegal i s := by
  rw [requireFpRm, requireFp, hm]; split <;> rfl

/-! ## Loads, stores and atomics that reach memory -/

/-- `loadX` where the access reaches memory. -/
theorem loadsX_of {i : Instr} {s s1 : State} {len va pa : Word} {n : Nat} {ext : Word → Word} {rd : Reg} {e : PmaEntry}
    (h : exec i s = loadX len n ext rd va s) (hr : Reaches s va n .load pa e s1) :
    LoadsX i s s1 len rd (ext (s1.loadMem pa.toNat n)) := by
  have hf := translate_onlyWalk hr.translated
  refine ⟨_, h.trans (by rw [loadX, memRead_reaches hr]; rfl), ?_, ?_, fun a => by simp, ?_⟩
  · have := setX_becomes s1 ((s1.setX rd (ext (s1.loadMem pa.toNat n))).retire len) rd _ rfl
    exact ⟨this.1, this.2.1, fun q hq => (this.2.2 q hq).trans (hf.getX q)⟩
  · exact ⟨by simp [hf.pc], by simp [hf.minstret]⟩
  · unfold OnlyX State.setX; split <;> rfl

/-- `loadF` where the access reaches memory. -/
theorem loadsF_of {i : Instr} {s s1 : State} {len va pa : Word} {n : Nat} {box : Word → Word} {rd : Reg} {e : PmaEntry}
    (h : exec i s = loadF len n box rd va s) (hr : Reaches s va n .load pa e s1) :
    LoadsF i s s1 len rd (box (s1.loadMem pa.toNat n)) := by
  have hf := translate_onlyWalk hr.translated
  have ht : exec i s = .next ((s1.setF rd (box (s1.loadMem pa.toNat n))).retire len) :=
    h.trans (by rw [loadF, memRead_reaches hr]; rfl)
  refine ⟨_, ht, ⟨?_, fun r hr' => ?_⟩, ?_, ⟨?_, fun k h13 h14 => ?_⟩, ?_,
    fun r => ?_, fun a => rfl, rfl⟩
  · rw [getF_retire, getF_setF, if_pos rfl]
  · rw [getF_retire, getF_setF, if_neg hr', hf.getF]
  · simp [FlagsAccrue, State.fflags, State.frm, hf.fcsr]
  · exact fs_of_dirty _
  · rw [← hf.mstatus]; exact dirty_elsewhere _ k h13 h14
  · exact ⟨by simp [hf.pc], by simp [hf.minstret]⟩
  · rw [getX_retire, getX_setF, hf.getX]

/-- `storeMemory` where the access reaches memory. -/
theorem stores_of {i : Instr} {s s1 : State} {len va pa v : Word} {n : Nat} {e : PmaEntry}
    (h : exec i s = storeMemory len n va v s) (hr : Reaches s va n .store pa e s1) (hm : s.mem.wf = true) (hn : 0 < n) :
    Stores i s s1 len pa.toNat n v.toNat := by
  have hf := translate_onlyWalk hr.translated
  have hw := translate_wf hr.translated hm
  have ht : exec i s = .next ((s1.storeMem pa.toNat n v).retire len) :=
    h.trans (by rw [storeMemory, memWrite_reaches hr]; rfl)
  refine ⟨_, ht, ⟨?_, ?_⟩, fun r => hf.getX r, storeMem_bytes hw pa.toNat n v, storeMem_outside hw pa.toNat n v,
    storeMem_reservation s1 pa.toNat n v hn, rfl⟩
  · simp [hf.pc]
  · simp [hf.minstret]

/-- `amo` where the access reaches memory that can be read. -/
theorem swaps_of {i : Instr} {s s1 : State} {pa : Word} {n : Nat} {ext : Word → Word} {f : Word → Word → Word}
    {rd rs1 rs2 : Reg} {e : PmaEntry} (h : exec i s = amo n ext f rd rs1 rs2 s)
    (hr : Reaches s (s.getX rs1) n .store pa e s1) (hre : e.r = true) (hm : s.mem.wf = true) (hn : 0 < n) :
    Swaps i s s1 pa.toNat n rd (ext (s1.loadMem pa.toNat n)) (f (s1.loadMem pa.toNat n) (s.getX rs2)).toNat := by
  have hf := translate_onlyWalk hr.translated
  have hw := translate_wf hr.translated hm
  have ht : exec i s = .next (((s1.storeMem pa.toNat n (f (s1.loadMem pa.toNat n) (s.getX rs2))).setX rd
      (ext (s1.loadMem pa.toNat n))).retire 4#64) := h.trans (by rw [amo, atomicAddr_reaches hr hre]; rfl)
  refine ⟨_, ht, ?_, ⟨?_, ?_⟩, ?_, ?_, ?_, ?_⟩
  · exact ⟨getX_zero _, fun h0 => by rw [getX_retire, getX_setX, if_neg h0, if_pos rfl],
      fun q hq => by
        rw [getX_retire, getX_setX, if_neg hq]
        split
        · next h0 => rw [h0, getX_zero]
        · exact hf.getX q⟩
  · simp [hf.pc]
  · simp [hf.minstret]
  · have := storeMem_bytes hw pa.toNat n (f (s1.loadMem pa.toNat n) (s.getX rs2))
    intro k hk
    simpa using this k hk
  · have := storeMem_outside hw pa.toNat n (f (s1.loadMem pa.toNat n) (s.getX rs2))
    intro k hk
    simpa using this k hk
  · have := storeMem_reservation s1 pa.toNat n (f (s1.loadMem pa.toNat n) (s.getX rs2)) hn
    simpa [ReservationAfterStore] using this
  · unfold OnlyXStore State.setX; split <;> rfl

end Sys2Proof.Machine
end

