-- ==== Sys2Proof/Laws/Construct.lean ====
section
/-! SUPPORT. The construction of a machine: what sorting the map keeps, and what the images leave in memory. -/

namespace Sys2Proof.Machine

open Sys2Proof

theorem insertPma_perm (e : PmaEntry) (l : List PmaEntry) : (insertPma e l).Perm (e :: l) := by
  induction l with
  | nil => exact .refl _
  | cons a rest ih =>
    rw [insertPma]
    split
    · exact .refl _
    · exact (ih.cons a).trans (.swap e a rest)

theorem insertPma_sorted (e : PmaEntry) {l : List PmaEntry} (h : l.Pairwise fun a b => a.start ≤ b.start) :
    (insertPma e l).Pairwise fun a b => a.start ≤ b.start := by
  induction l with
  | nil => simp [insertPma]
  | cons a rest ih =>
    rw [List.pairwise_cons] at h
    rw [insertPma]
    split
    · rename_i hlt
      exact List.pairwise_cons.2 ⟨fun b hb => by rcases List.mem_cons.1 hb with rfl | hb; exacts [hlt.le, hlt.le.trans (h.1 b hb)],
        List.pairwise_cons.2 h⟩
    · rename_i hge
      refine List.pairwise_cons.2 ⟨fun b hb => ?_, ih h.2⟩
      rcases List.mem_cons.1 ((insertPma_perm e rest).mem_iff.1 hb) with rfl | hb
      exacts [not_lt.1 hge, h.1 b hb]

/-- The images of the flash drives keep the canonical form of memory. -/
theorem flashImages_wf (l : List FlashDrive) : ∀ {m : Memory}, m.wf = true →
    (l.foldl (fun m d => m.storeBytes d.start d.image) m).wf = true := by
  induction l with
  | nil => exact id
  | cons d l ih => exact fun h => ih (Memory.storeBytes_wf h d.start d.image)

theorem Configuration.memory_wf (c : Configuration) : c.memory.wf = true :=
  flashImages_wf c.flash (Memory.storeBytes_wf (Memory.storeBytes_wf rfl _ _) _ _)

/-- Flash drive `k` has the range and the flags that the configuration gives it. -/
theorem flashEntries_getElem? (l : List FlashDrive) : ∀ k j, (flashEntries k l)[j]? =
    (l[j]?).map fun d => Config.flashEntry (k + j) d.start d.length d.flags := by
  induction l with
  | nil => intro k j; rfl
  | cons d l ih =>
    intro k j
    cases j with
    | zero => rfl
    | succ j => rw [flashEntries, List.getElem?_cons_succ, ih, List.getElem?_cons_succ, Nat.add_right_comm, Nat.add_assoc]

/-- The one way a machine comes to be: a legal configuration, and its state. -/
theorem Configuration.create_eq_some {c : Configuration} {s : State} :
    c.create = some s ↔ c.legal = true ∧ s = c.construct := by
  rw [Configuration.create, Option.ite_none_right_eq_some, Option.some_inj, eq_comm (a := s)]

end Sys2Proof.Machine
end

