-- ==== Sys2Proof/Laws/Decode.lean ====
section
/-! SUPPORT. Cutting a word into fields and putting it together are inverse, and so are the two directions of every immediate:
the decoder's reading (`Fields32.immB`, ...) of what the encoder's formats (`Encode.b`, ...) write, and back. -/

namespace Sys2Proof

/-! ## Words and fields -/

@[simp] theorem Fields32.ofWord_toWord (f : Fields32) : Fields32.ofWord f.toWord = f := by
  obtain ⟨f7, rs2, rs1, f3, rd, op⟩ := f
  simp only [Fields32.ofWord, Fields32.toWord, Fields32.mk.injEq]
  refine ⟨?_, ?_, ?_, ?_, ?_, ?_⟩ <;>
    · ext i hi
      simp only [slice, BitVec.getElem_extractLsb', BitVec.getLsbD_append]
      grind

@[simp] theorem Fields32.toWord_ofWord (w : BitVec 32) : (Fields32.ofWord w).toWord = w := by
  ext i hi
  simp only [Fields32.ofWord, Fields32.toWord, slice]
  grind

@[simp] theorem Fields16.ofWord_toWord (f : Fields16) : Fields16.ofWord f.toWord = f := by
  obtain ⟨f3, b12, b11, r9, b6, r4, op⟩ := f
  simp only [Fields16.ofWord, Fields16.toWord, Fields16.mk.injEq]
  refine ⟨?_, ?_, ?_, ?_, ?_, ?_, ?_⟩ <;>
    · ext i hi
      simp only [slice, BitVec.getElem_extractLsb', BitVec.getLsbD_append]
      grind

@[simp] theorem Fields16.toWord_ofWord (w : BitVec 16) : (Fields16.ofWord w).toWord = w := by
  ext i hi
  simp only [Fields16.ofWord, Fields16.toWord, slice]
  grind

/-- A 32-bit word is known by its fields. -/
theorem Fields32.ofWord_injective {v w : BitVec 32} (h : Fields32.ofWord v = Fields32.ofWord w) : v = w := by
  rw [← Fields32.toWord_ofWord v, h, Fields32.toWord_ofWord]

/-- A 16-bit word is known by its fields. -/
theorem Fields16.ofWord_injective {v w : BitVec 16} (h : Fields16.ofWord v = Fields16.ofWord w) : v = w := by
  rw [← Fields16.toWord_ofWord v, h, Fields16.toWord_ofWord]

/-! ## Immediates: what a format writes is read back -/

@[simp] theorem Fields32.immI_pack (imm : BitVec 12) (rs1 rd : Reg) (f3 : BitVec 3) (op : BitVec 7) :
    Fields32.immI ⟨slice imm 5 7, slice imm 0 5, rs1, f3, rd, op⟩ = imm := by
  apply BitVec.eq_of_getLsbD_eq
  intro i hi
  simp only [Fields32.immI, slice, BitVec.getLsbD_append, BitVec.getLsbD_extractLsb']
  interval_cases i <;> simp

@[simp] theorem Fields32.immS_pack (imm : BitVec 12) (rs2 rs1 : Reg) (f3 : BitVec 3) (op : BitVec 7) :
    Fields32.immS ⟨slice imm 5 7, rs2, rs1, f3, slice imm 0 5, op⟩ = imm := by
  apply BitVec.eq_of_getLsbD_eq
  intro i hi
  simp only [Fields32.immS, slice, BitVec.getLsbD_append, BitVec.getLsbD_extractLsb']
  interval_cases i <;> simp

@[simp] theorem Fields32.immB_pack (imm : BitVec 12) (rs2 rs1 : Reg) (f3 : BitVec 3) (op : BitVec 7) :
    Fields32.immB ⟨slice imm 11 1 ++ slice imm 4 6, rs2, rs1, f3, slice imm 0 4 ++ slice imm 10 1, op⟩ = imm := by
  apply BitVec.eq_of_getLsbD_eq
  intro i hi
  simp only [Fields32.immB, slice, BitVec.getLsbD_append, BitVec.getLsbD_extractLsb']
  interval_cases i <;> simp

@[simp] theorem Fields32.immU_pack (imm : BitVec 20) (rd : Reg) (op : BitVec 7) :
    Fields32.immU ⟨slice imm 13 7, slice imm 8 5, slice imm 3 5, slice imm 0 3, rd, op⟩ = imm := by
  apply BitVec.eq_of_getLsbD_eq
  intro i hi
  simp only [Fields32.immU, slice, BitVec.getLsbD_append, BitVec.getLsbD_extractLsb']
  interval_cases i <;> simp

@[simp] theorem Fields32.immJ_pack (imm : BitVec 20) (rd : Reg) (op : BitVec 7) :
    Fields32.immJ ⟨slice imm 19 1 ++ slice imm 4 6, slice imm 0 4 ++ slice imm 10 1, slice imm 14 5, slice imm 11 3, rd, op⟩ = imm := by
  apply BitVec.eq_of_getLsbD_eq
  intro i hi
  simp only [Fields32.immJ, slice, BitVec.getLsbD_append, BitVec.getLsbD_extractLsb']
  interval_cases i <;> simp

@[simp] theorem Fields32.shamt6_pack (f6 : BitVec 6) (sh : BitVec 6) (rs1 rd : Reg) (f3 : BitVec 3) (op : BitVec 7) :
    Fields32.shamt6 ⟨f6 ++ slice sh 5 1, slice sh 0 5, rs1, f3, rd, op⟩ = sh := by
  apply BitVec.eq_of_getLsbD_eq
  intro i hi
  simp only [Fields32.shamt6, slice, BitVec.getLsbD_append, BitVec.getLsbD_extractLsb']
  interval_cases i <;> simp

@[simp] theorem Fields16.rd_pack (rd : Reg) (f3 : BitVec 3) (b12 : BitVec 1) (b6 : BitVec 2) (r4 : BitVec 3) (op : BitVec 2) :
    Fields16.rd ⟨f3, b12, slice rd 3 2, slice rd 0 3, b6, r4, op⟩ = rd := by
  apply BitVec.eq_of_getLsbD_eq
  intro i hi
  simp only [Fields16.rd, slice, BitVec.getLsbD_append, BitVec.getLsbD_extractLsb']
  interval_cases i <;> simp

@[simp] theorem Fields16.rs2_pack (rs2 : Reg) (f3 : BitVec 3) (b12 : BitVec 1) (b11 : BitVec 2) (r9 : BitVec 3) (op : BitVec 2) :
    Fields16.rs2 ⟨f3, b12, b11, r9, slice rs2 3 2, slice rs2 0 3, op⟩ = rs2 := by
  apply BitVec.eq_of_getLsbD_eq
  intro i hi
  simp only [Fields16.rs2, slice, BitVec.getLsbD_append, BitVec.getLsbD_extractLsb']
  interval_cases i <;> simp

@[simp] theorem Fields16.immSpn_pack (z : BitVec 8) (r4 : CReg) (f3 : BitVec 3) (op : BitVec 2) :
    Fields16.immSpn ⟨f3, slice z 3 1, slice z 2 1 ++ slice z 7 1, slice z 4 3, slice z 0 1 ++ slice z 1 1, r4, op⟩ = z := by
  apply BitVec.eq_of_getLsbD_eq
  intro i hi
  simp only [Fields16.immSpn, slice, BitVec.getLsbD_append, BitVec.getLsbD_extractLsb']
  interval_cases i <;> simp

@[simp] theorem Fields16.immD_pack (u : BitVec 5) (r4 r9 : CReg) (f3 : BitVec 3) (op : BitVec 2) :
    Fields16.immD ⟨f3, slice u 2 1, slice u 0 2, r9, slice u 3 2, r4, op⟩ = u := by
  apply BitVec.eq_of_getLsbD_eq
  intro i hi
  simp only [Fields16.immD, slice, BitVec.getLsbD_append, BitVec.getLsbD_extractLsb']
  interval_cases i <;> simp

@[simp] theorem Fields16.immW_pack (u : BitVec 5) (r4 r9 : CReg) (f3 : BitVec 3) (op : BitVec 2) :
    Fields16.immW ⟨f3, slice u 3 1, slice u 1 2, r9, slice u 0 1 ++ slice u 4 1, r4, op⟩ = u := by
  apply BitVec.eq_of_getLsbD_eq
  intro i hi
  simp only [Fields16.immW, slice, BitVec.getLsbD_append, BitVec.getLsbD_extractLsb']
  interval_cases i <;> simp

@[simp] theorem Fields16.immCI_pack (imm : BitVec 6) (b11 : BitVec 2) (r9 : BitVec 3) (f3 : BitVec 3) (op : BitVec 2) :
    Fields16.immCI ⟨f3, slice imm 5 1, b11, r9, slice imm 3 2, slice imm 0 3, op⟩ = imm := by
  apply BitVec.eq_of_getLsbD_eq
  intro i hi
  simp only [Fields16.immCI, slice, BitVec.getLsbD_append, BitVec.getLsbD_extractLsb']
  interval_cases i <;> simp

@[simp] theorem Fields16.imm16sp_pack (z : BitVec 6) (b11 : BitVec 2) (r9 : BitVec 3) (f3 : BitVec 3) (op : BitVec 2) :
    Fields16.imm16sp ⟨f3, slice z 5 1, b11, r9, slice z 0 1 ++ slice z 2 1, slice z 3 2 ++ slice z 1 1, op⟩ = z := by
  apply BitVec.eq_of_getLsbD_eq
  intro i hi
  simp only [Fields16.imm16sp, slice, BitVec.getLsbD_append, BitVec.getLsbD_extractLsb']
  interval_cases i <;> simp

@[simp] theorem Fields16.immLwsp_pack (w : BitVec 6) (b11 : BitVec 2) (r9 : BitVec 3) (f3 : BitVec 3) (op : BitVec 2) :
    Fields16.immLwsp ⟨f3, slice w 3 1, b11, r9, slice w 1 2, slice w 0 1 ++ slice w 4 2, op⟩ = w := by
  apply BitVec.eq_of_getLsbD_eq
  intro i hi
  simp only [Fields16.immLwsp, slice, BitVec.getLsbD_append, BitVec.getLsbD_extractLsb']
  interval_cases i <;> simp

@[simp] theorem Fields16.immLdsp_pack (w : BitVec 6) (b11 : BitVec 2) (r9 : BitVec 3) (f3 : BitVec 3) (op : BitVec 2) :
    Fields16.immLdsp ⟨f3, slice w 2 1, b11, r9, slice w 0 2, slice w 3 3, op⟩ = w := by
  apply BitVec.eq_of_getLsbD_eq
  intro i hi
  simp only [Fields16.immLdsp, slice, BitVec.getLsbD_append, BitVec.getLsbD_extractLsb']
  interval_cases i <;> simp

@[simp] theorem Fields16.immSwsp_pack (w : BitVec 6) (b6 : BitVec 2) (r4 : BitVec 3) (f3 : BitVec 3) (op : BitVec 2) :
    Fields16.immSwsp ⟨f3, slice w 3 1, slice w 1 2, slice w 0 1 ++ slice w 4 2, b6, r4, op⟩ = w := by
  apply BitVec.eq_of_getLsbD_eq
  intro i hi
  simp only [Fields16.immSwsp, slice, BitVec.getLsbD_append, BitVec.getLsbD_extractLsb']
  interval_cases i <;> simp

@[simp] theorem Fields16.immSdsp_pack (w : BitVec 6) (b6 : BitVec 2) (r4 : BitVec 3) (f3 : BitVec 3) (op : BitVec 2) :
    Fields16.immSdsp ⟨f3, slice w 2 1, slice w 0 2, slice w 3 3, b6, r4, op⟩ = w := by
  apply BitVec.eq_of_getLsbD_eq
  intro i hi
  simp only [Fields16.immSdsp, slice, BitVec.getLsbD_append, BitVec.getLsbD_extractLsb']
  interval_cases i <;> simp

@[simp] theorem Fields16.immJ_pack (off : BitVec 11) (f3 : BitVec 3) (op : BitVec 2) :
    Fields16.immJ ⟨f3, slice off 10 1, slice off 3 1 ++ slice off 8 1, slice off 7 1 ++ slice off 9 1 ++ slice off 5 1, slice off 6 1 ++ slice off 2 1, slice off 0 2 ++ slice off 4 1, op⟩ = off := by
  apply BitVec.eq_of_getLsbD_eq
  intro i hi
  simp only [Fields16.immJ, slice, BitVec.getLsbD_append, BitVec.getLsbD_extractLsb']
  interval_cases i <;> simp

@[simp] theorem Fields16.immB_pack (imm : BitVec 8) (rs1 : CReg) (f3 : BitVec 3) (op : BitVec 2) :
    Fields16.immB ⟨f3, slice imm 7 1, slice imm 2 2, rs1, slice imm 5 2, slice imm 0 2 ++ slice imm 4 1, op⟩ = imm := by
  apply BitVec.eq_of_getLsbD_eq
  intro i hi
  simp only [Fields16.immB, slice, BitVec.getLsbD_append, BitVec.getLsbD_extractLsb']
  interval_cases i <;> simp

end Sys2Proof
end

