-- ==== Sys2Proof/Laws/Encoding.lean ====
section
/-! SUPPORT. The written-out formats of Safety.lean are the encoder's formats, and decoding a word goes by its fields. -/

namespace Sys2Proof.Machine

open Sys2Proof

@[simp] theorem decode_toWord (f : Fields32) : decode (.word f.toWord) = Decode.word32 f := by
  rw [decode, Fields32.ofWord_toWord]

@[simp] theorem decode_toHalf (f : Fields16) : decode (.half f.toWord) = Decode.word16 f := by
  rw [decode, Fields16.ofWord_toWord]

/-! ## The formats by fields -/

theorem rWord_fields (f7 : BitVec 7) (rs2 rs1 : Reg) (f3 : BitVec 3) (rd : Reg) (op : BitVec 7) :
    rWord f7 rs2 rs1 f3 rd op = Fields32.toWord ⟨f7, rs2, rs1, f3, rd, op⟩ := rfl

theorem iWord_fields (imm : BitVec 12) (rs1 : Reg) (f3 : BitVec 3) (rd : Reg) (op : BitVec 7) :
    iWord imm rs1 f3 rd op = Fields32.toWord ⟨slice imm 5 7, slice imm 0 5, rs1, f3, rd, op⟩ := by
  have h : imm = slice imm 5 7 ++ slice imm 0 5 := by
    apply BitVec.eq_of_getLsbD_eq
    intro k hk
    simp only [slice, BitVec.getLsbD_append, BitVec.getLsbD_extractLsb']
    interval_cases k <;> simp
  conv_lhs => rw [iWord, h]
  rfl

theorem sWord_fields (imm : BitVec 12) (rs2 rs1 : Reg) (f3 : BitVec 3) (op : BitVec 7) :
    sWord imm rs2 rs1 f3 op = Fields32.toWord ⟨slice imm 5 7, rs2, rs1, f3, slice imm 0 5, op⟩ := rfl

theorem bWord_fields (imm : BitVec 12) (rs2 rs1 : Reg) (f3 : BitVec 3) (op : BitVec 7) :
    bWord imm rs2 rs1 f3 op =
      Fields32.toWord ⟨slice imm 11 1 ++ slice imm 4 6, rs2, rs1, f3, slice imm 0 4 ++ slice imm 10 1, op⟩ := by
  apply BitVec.eq_of_getLsbD_eq
  intro k hk
  simp only [bWord, Fields32.toWord, slice, BitVec.getLsbD_append, BitVec.getLsbD_extractLsb']
  interval_cases k <;> simp

theorem uWord_fields (imm : BitVec 20) (rd : Reg) (op : BitVec 7) :
    uWord imm rd op = Fields32.toWord ⟨slice imm 13 7, slice imm 8 5, slice imm 3 5, slice imm 0 3, rd, op⟩ := by
  apply BitVec.eq_of_getLsbD_eq
  intro k hk
  simp only [uWord, Fields32.toWord, slice, BitVec.getLsbD_append, BitVec.getLsbD_extractLsb']
  interval_cases k <;> simp

theorem jWord_fields (imm : BitVec 20) (rd : Reg) (op : BitVec 7) :
    jWord imm rd op = Fields32.toWord
      ⟨slice imm 19 1 ++ slice imm 4 6, slice imm 0 4 ++ slice imm 10 1, slice imm 14 5, slice imm 11 3, rd, op⟩ := by
  apply BitVec.eq_of_getLsbD_eq
  intro k hk
  simp only [jWord, Fields32.toWord, slice, BitVec.getLsbD_append, BitVec.getLsbD_extractLsb']
  interval_cases k <;> simp

theorem shift6Word_fields (f6 sh : BitVec 6) (rs1 : Reg) (f3 : BitVec 3) (rd : Reg) (op : BitVec 7) :
    shift6Word f6 sh rs1 f3 rd op = Fields32.toWord ⟨f6 ++ slice sh 5 1, slice sh 0 5, rs1, f3, rd, op⟩ := by
  apply BitVec.eq_of_getLsbD_eq
  intro k hk
  simp only [shift6Word, Fields32.toWord, slice, BitVec.getLsbD_append, BitVec.getLsbD_extractLsb']
  interval_cases k <;> simp

theorem amoWord_fields (f5 : BitVec 5) (aq rl : BitVec 1) (rs2 rs1 : Reg) (f3 : BitVec 3) (rd : Reg) :
    amoWord f5 aq rl rs2 rs1 f3 rd = Fields32.toWord ⟨f5 ++ aq ++ rl, rs2, rs1, f3, rd, 0x2F#7⟩ := rfl

theorem r4Word_fields (rs3 : Reg) (fmt : BitVec 2) (rs2 rs1 : Reg) (rm : RmField) (rd : Reg) (op : BitVec 7) :
    r4Word rs3 fmt rs2 rs1 rm rd op = Fields32.toWord ⟨rs3 ++ fmt, rs2, rs1, rm, rd, op⟩ := rfl

/-! ## The minor fields that the decoder cuts out of `funct7` -/

@[simp] theorem funct6_of_shift (f6 : BitVec 6) (b : BitVec 1) : slice (f6 ++ b) 1 6 = f6 := by
  apply BitVec.eq_of_getLsbD_eq
  intro k hk
  simp only [slice, BitVec.getLsbD_append, BitVec.getLsbD_extractLsb']
  interval_cases k <;> simp

@[simp] theorem fmt_of_r4 (rs3 : Reg) (fmt : BitVec 2) : slice (rs3 ++ fmt) 0 2 = fmt := by
  apply BitVec.eq_of_getLsbD_eq
  intro k hk
  simp only [slice, BitVec.getLsbD_append, BitVec.getLsbD_extractLsb']
  interval_cases k <;> simp

@[simp] theorem rs3_of_r4 (rs3 : Reg) (fmt : BitVec 2) : slice (rs3 ++ fmt) 2 5 = rs3 := by
  apply BitVec.eq_of_getLsbD_eq
  intro k hk
  simp only [slice, BitVec.getLsbD_append, BitVec.getLsbD_extractLsb']
  interval_cases k <;> simp

@[simp] theorem funct5_of_amo (f5 : BitVec 5) (aq rl : BitVec 1) : slice (f5 ++ aq ++ rl) 2 5 = f5 := by
  apply BitVec.eq_of_getLsbD_eq
  intro k hk
  simp only [slice, BitVec.getLsbD_append, BitVec.getLsbD_extractLsb']
  interval_cases k <;> simp

@[simp] theorem aq_of_amo (f5 : BitVec 5) (aq rl : BitVec 1) : slice (f5 ++ aq ++ rl) 1 1 = aq := by
  apply BitVec.eq_of_getLsbD_eq
  intro k hk
  simp only [slice, BitVec.getLsbD_append, BitVec.getLsbD_extractLsb']
  interval_cases k <;> simp

@[simp] theorem rl_of_amo (f5 : BitVec 5) (aq rl : BitVec 1) : slice (f5 ++ aq ++ rl) 0 1 = rl := by
  apply BitVec.eq_of_getLsbD_eq
  intro k hk
  simp only [slice, BitVec.getLsbD_append, BitVec.getLsbD_extractLsb']
  interval_cases k <;> simp

end Sys2Proof.Machine
end

