-- ==== Sys2Proof/Laws/Exec.lean ====
section
/-! SUPPORT. Everything `exec` can do, once, as a short list of shapes: a proof over all instructions goes by these shapes instead
of by 197 meanings. -/

namespace Sys2Proof.Machine

open Sys2Proof

/-- The shapes of a next state of instruction `i`. -/
inductive Effect (i : Instr) (s : State) : State → Prop
  /-- An exception, with nothing done before it but, at most, the translation of the instruction's data access. -/
  | trap (u : State) (e : Exc) (tval : Word)
      (hu : u = s ∨ ∃ a pa, accessOf i s = some a ∧ translate s a.va a.acc = .ok pa u) : Effect i s (u.takeException e tval)
  /-- An integer register and `pc`, which stays even. -/
  | toX (rd : Reg) (v next : Word) (hn : accessOf i s = none) (hpc : s.pc.getLsbD 0 = false → next.getLsbD 0 = false) :
      Effect i s ((s.setX rd v).retireTo next)
  /-- Flags and a floating-point register, with the unit on. -/
  | toF (rd : Reg) (v : Word) (fl : FFlags) (hn : accessOf i s = none) (hfs : s.fs ≠ 0#2) :
      Effect i s (((s.accrue fl).setF rd v).retire 4#64)
  /-- Flags and an integer register, with the unit on. -/
  | toXFlags (rd : Reg) (v : Word) (fl : FFlags) (hn : accessOf i s = none) (hfs : s.fs ≠ 0#2) :
      Effect i s (((s.accrue fl).setX rd v).retire 4#64)
  /-- A load into an integer register. -/
  | loadX (va pa : Word) (n : Nat) (s1 : State) (rd : Reg) (v len : Word) (ha : accessOf i s = some ⟨.load, va, n, false⟩)
      (ht : translate s va .load = .ok pa s1) (hlen : len.getLsbD 0 = false) : Effect i s ((s1.setX rd v).retire len)
  /-- A load into a floating-point register. -/
  | loadF (va pa : Word) (n : Nat) (s1 : State) (rd : Reg) (v len : Word) (ha : accessOf i s = some ⟨.load, va, n, false⟩)
      (ht : translate s va .load = .ok pa s1) (hfs : s.fs ≠ 0#2) (hlen : len.getLsbD 0 = false) :
      Effect i s ((s1.setF rd v).retire len)
  /-- A store to memory or to a device. -/
  | store (va pa v len : Word) (n : Nat) (s1 s2 : State) (e : PmaEntry) (ha : accessOf i s = some ⟨.store, va, n, false⟩)
      (ht : translate s va .store = .ok pa s1) (he : findPma s1.cfg.pma pa.toNat n = some e)
      (hw : physWrite s1 e pa.toNat n v = some s2) (hlen : len.getLsbD 0 = false) : Effect i s (s2.retire len)
  /-- Load-reserved. -/
  | reserve (va pa : Word) (n : Nat) (s1 : State) (rd : Reg) (v : Word) (ha : accessOf i s = some ⟨.load, va, n, true⟩)
      (hsize : n = 4 ∨ n = 8) (ht : translate s va .load = .ok pa s1) :
      Effect i s ((State.setX { s1 with ilrsc := some ⟨pa, n⟩ } rd v).retire 4#64)
  /-- Store-conditional that stores. -/
  | condStore (va pa v : Word) (n : Nat) (s1 : State) (rd : Reg) (ha : accessOf i s = some ⟨.store, va, n, true⟩)
      (ht : translate s va .store = .ok pa s1) :
      Effect i s ((State.setX { s1.storeMem pa.toNat n v with ilrsc := none } rd 0#64).retire 4#64)
  /-- Store-conditional that does not store. -/
  | condSkip (va pa : Word) (n : Nat) (s1 : State) (rd : Reg) (ha : accessOf i s = some ⟨.store, va, n, true⟩)
      (ht : translate s va .store = .ok pa s1) :
      Effect i s ((State.setX { s1 with ilrsc := none } rd 1#64).retire 4#64)
  /-- An atomic memory operation. -/
  | amo (va pa v old : Word) (n : Nat) (s1 : State) (rd : Reg) (ha : accessOf i s = some ⟨.store, va, n, true⟩)
      (ht : translate s va .store = .ok pa s1) : Effect i s (((s1.storeMem pa.toNat n v).setX rd old).retire 4#64)
  /-- A CSR instruction that may make its access. -/
  | csr (a : BitVec 12) (c : Csr) (wr : Bool) (v : Word) (rd : Reg) (hi : isCsr i) (hn : accessOf i s = none)
      (hc : s.checkCsr a wr = some c) :
      Effect i s (((if wr then csrWrite s c v else s).setX rd (csrRead s c)).retire 4#64)
  /-- `MRET` in M-mode. -/
  | mret (hi : i = .mret) (hp : s.priv = .machine) : Effect i s s.returnFromM.retireHere
  /-- `SRET` where it is allowed. -/
  | sret (hi : i = .sret) (hp : s.priv ≠ .user) : Effect i s s.returnFromS.retireHere
  /-- `WFI` where it is allowed. -/
  | wfi (hi : i = .wfi) : Effect i s { s.retire 4#64 with idle := s.idle || (s.mip &&& s.mie) == 0#64 }
  /-- `SFENCE.VMA` where it is allowed. -/
  | sfence (rs1 rs2 : Reg) (hi : i = .sfenceVma rs1 rs2) (hp : s.priv ≠ .user) : Effect i s (s.flushTlbs.retire 4#64)

/-- What stood before an exception differs from the old state by a translation at most. -/
theorem onlyWalk_of_trap {i : Instr} {s u : State} (h : u = s ∨ ∃ a pa, accessOf i s = some a ∧ translate s a.va a.acc = .ok pa u) :
    OnlyWalk s u := by
  rcases h with rfl | ⟨a, pa, -, h⟩
  · exact OnlyWalk.refl _
  · exact translate_onlyWalk h

/-- The outcome is a next state of one of the shapes. -/
def HasEffect (i : Instr) (s : State) (o : StepOutcome) : Prop := ∃ t, o = .next t ∧ Effect i s t

/-! ## The shared operations -/

theorem HasEffect.exception {i : Instr} {s : State} (e : Exc) (tval : Word) : HasEffect i s (.next (s.takeException e tval)) :=
  ⟨_, rfl, .trap s e tval (.inl rfl)⟩

theorem HasEffect.illegal {i : Instr} {s : State} (j : Instr) : HasEffect i s (illegal j s) := HasEffect.exception ..

/-- An even offset from an even `pc`. -/
theorem even_add {a b : Word} (ha : a.getLsbD 0 = false) (hb : b.getLsbD 0 = false) : (a + b).getLsbD 0 = false := by
  simp only [BitVec.getLsbD_eq_getElem, show (0 : Nat) < 64 by decide] at *
  simp [BitVec.getElem_add, ha, hb]

/-- An immediate with an implicit zero bit is even. -/
theorem even_sext {n : Nat} (imm : BitVec n) : (sext64 (imm ++ 0#1)).getLsbD 0 = false := by
  rw [sext64, BitVec.getLsbD_signExtend, BitVec.getLsbD_append]
  simp

/-- A `JALR` target is even. -/
theorem even_jalr (a b : Word) : (jalrTarget a b).getLsbD 0 = false := by
  simp [jalrTarget]

theorem HasEffect.writeX {i : Instr} {s : State} (len : Word) (rd : Reg) (v : Word) (hn : accessOf i s = none)
    (hlen : len.getLsbD 0 = false) : HasEffect i s (writeX len rd v s) :=
  ⟨_, rfl, .toX rd v _ hn fun h => even_add (by rwa [setX_pc]) hlen⟩

theorem HasEffect.retireTo {i : Instr} {s : State} (next : Word) (hn : accessOf i s = none)
    (hpc : s.pc.getLsbD 0 = false → next.getLsbD 0 = false) : HasEffect i s (.next (s.retireTo next)) :=
  ⟨_, rfl, .toX 0#5 0#64 next hn hpc⟩

theorem HasEffect.retire {i : Instr} {s : State} (len : Word) (hn : accessOf i s = none) (hlen : len.getLsbD 0 = false) :
    HasEffect i s (.next (s.retire len)) := HasEffect.retireTo _ hn fun h => even_add h hlen

theorem HasEffect.branch {i : Instr} {s : State} (len : Word) (taken : Bool) (off : Word) (hn : accessOf i s = none)
    (hlen : len.getLsbD 0 = false) (hoff : off.getLsbD 0 = false) : HasEffect i s (branch len taken off s) :=
  HasEffect.retireTo _ hn fun h => even_add h (by cases taken <;> simpa)

theorem HasEffect.jump {i : Instr} {s : State} (len : Word) (rd : Reg) (target : Word) (hn : accessOf i s = none)
    (hpc : s.pc.getLsbD 0 = false → target.getLsbD 0 = false) : HasEffect i s (jump len rd target s) :=
  ⟨_, rfl, .toX rd _ _ hn hpc⟩

theorem HasEffect.requireFp {i : Instr} {s : State} (j : Instr) {k : StepOutcome} (h : s.fs ≠ 0#2 → HasEffect i s k) :
    HasEffect i s (requireFp j s k) := by
  by_cases hfs : s.fs = 0#2
  · rw [requireFp_off hfs]; exact HasEffect.illegal j
  · rw [requireFp_on hfs]; exact h hfs

theorem HasEffect.requireFpRm {i : Instr} {s : State} (j : Instr) (rm : RmField) {k : RoundingMode → StepOutcome}
    (h : s.fs ≠ 0#2 → ∀ m, HasEffect i s (k m)) : HasEffect i s (requireFpRm j rm s k) := by
  refine HasEffect.requireFp j fun hfs => ?_
  split
  · exact h hfs _
  · exact HasEffect.illegal j

theorem HasEffect.writeFp {i : Instr} {s : State} (rd : Reg) (r : Word × FFlags) (hn : accessOf i s = none)
    (hfs : s.fs ≠ 0#2) : HasEffect i s (writeFp rd r s) := ⟨_, rfl, .toF rd _ _ hn hfs⟩

theorem HasEffect.writeFpX {i : Instr} {s : State} (rd : Reg) (r : Word × FFlags) (hn : accessOf i s = none)
    (hfs : s.fs ≠ 0#2) : HasEffect i s (writeFpX rd r s) := ⟨_, rfl, .toXFlags rd _ _ hn hfs⟩

theorem HasEffect.raised {i : Instr} {s u : State} {e : Exc} {tval : Word} {a : DataAccess} (ha : accessOf i s = some a)
    (hu : u = s ∨ ∃ pa, translate s a.va a.acc = .ok pa u) : HasEffect i s (.next (u.takeException e tval)) :=
  ⟨_, rfl, .trap u e tval (hu.imp id fun ⟨pa, h⟩ => ⟨a, pa, ha, h⟩)⟩

theorem HasEffect.loadX {i : Instr} {s : State} {n : Nat} {va : Word} (len : Word) (ext : Word → Word) (rd : Reg)
    (ha : accessOf i s = some ⟨.load, va, n, false⟩) (hlen : len.getLsbD 0 = false) :
    HasEffect i s (loadX len n ext rd va s) := by
  unfold Machine.loadX
  rcases memRead_cases s va n with ⟨v, pa, s1, h, ht⟩ | ⟨e, s1, h, hu⟩ <;> rw [h]
  · exact ⟨_, rfl, .loadX va pa n s1 rd _ len ha ht hlen⟩
  · exact HasEffect.raised ha hu

theorem HasEffect.loadF {i : Instr} {s : State} {n : Nat} {va : Word} (len : Word) (box : Word → Word) (rd : Reg)
    (ha : accessOf i s = some ⟨.load, va, n, false⟩) (hfs : s.fs ≠ 0#2)
    (hlen : len.getLsbD 0 = false) : HasEffect i s (loadF len n box rd va s) := by
  unfold Machine.loadF
  rcases memRead_cases s va n with ⟨v, pa, s1, h, ht⟩ | ⟨e, s1, h, hu⟩ <;> rw [h]
  · exact ⟨_, rfl, .loadF va pa n s1 rd _ len ha ht hfs hlen⟩
  · exact HasEffect.raised ha hu

theorem HasEffect.storeMemory {i : Instr} {s : State} {n : Nat} {va : Word} (len v : Word)
    (ha : accessOf i s = some ⟨.store, va, n, false⟩) (hlen : len.getLsbD 0 = false) :
    HasEffect i s (storeMemory len n va v s) := by
  unfold Machine.storeMemory
  rcases memWrite_cases s va n v with ⟨e, s1, h, hu⟩ | ⟨s1, s2, pa, e, ht, he, hw, h⟩ <;> rw [h]
  · exact HasEffect.raised ha hu
  · exact ⟨_, rfl, .store va pa v len n s1 s2 e ha ht he hw hlen⟩

theorem HasEffect.loadReserved {i : Instr} {s : State} {n : Nat} (ext : Word → Word) (rd rs1 : Reg) (hn : n = 4 ∨ n = 8)
    (ha : accessOf i s = some ⟨.load, s.getX rs1, n, true⟩) : HasEffect i s (loadReserved n ext rd rs1 s) := by
  unfold Machine.loadReserved
  rcases atomicAddr_cases s (s.getX rs1) n .load with ⟨pa, s1, h, ht⟩ | ⟨e, s1, h, hu⟩ <;> rw [h]
  · exact ⟨_, rfl, .reserve _ pa n s1 rd _ ha hn ht⟩
  · exact HasEffect.raised ha hu

theorem HasEffect.storeConditional {i : Instr} {s : State} {n : Nat} (rd rs1 rs2 : Reg)
    (ha : accessOf i s = some ⟨.store, s.getX rs1, n, true⟩) : HasEffect i s (storeConditional n rd rs1 rs2 s) := by
  unfold Machine.storeConditional
  rcases atomicAddr_cases s (s.getX rs1) n .store with ⟨pa, s1, h, ht⟩ | ⟨e, s1, h, hu⟩ <;> rw [h, Result.bind]
  · dsimp only
    split
    · exact ⟨_, rfl, .condStore _ pa _ n s1 rd ha ht⟩
    · exact ⟨_, rfl, .condSkip _ pa n s1 rd ha ht⟩
  · exact HasEffect.raised ha hu

theorem HasEffect.amo {i : Instr} {s : State} {n : Nat} (ext : Word → Word) (f : Word → Word → Word) (rd rs1 rs2 : Reg)
    (ha : accessOf i s = some ⟨.store, s.getX rs1, n, true⟩) : HasEffect i s (amo n ext f rd rs1 rs2 s) := by
  unfold Machine.amo
  rcases atomicAddr_cases s (s.getX rs1) n .store with ⟨pa, s1, h, ht⟩ | ⟨e, s1, h, hu⟩ <;> rw [h]
  · exact ⟨_, rfl, .amo _ pa _ _ n s1 rd ha ht⟩
  · exact HasEffect.raised ha hu

theorem HasEffect.csrInstr {i : Instr} {s : State} (j : Instr) (a : BitVec 12) (wr : Bool) (new : Word → Word) (rd : Reg)
    (hi : isCsr i) (hn : accessOf i s = none) : HasEffect i s (csrInstr j a wr new rd s) := by
  unfold Machine.csrInstr
  split
  · exact HasEffect.illegal j
  next c hc =>
    exact ⟨_, rfl, .csr a c wr _ rd hi hn hc⟩

/-! ## Every instruction -/

/-- `exec` always answers a next state, of one of the shapes. -/
theorem exec_hasEffect (i : Instr) (s : State) : HasEffect i s (exec i s) := by
  cases i <;> simp only [exec]
  case ecall => exact HasEffect.exception ..
  case ebreak => exact HasEffect.exception ..
  case cEbreak => exact HasEffect.exception ..
  case mret =>
    unfold execMret; split
    next h => exact ⟨_, rfl, .mret rfl h⟩
    · exact HasEffect.illegal _
  case sret =>
    unfold execSret; split
    next h => exact ⟨_, rfl, .sret rfl fun hp => by simp [State.sretAllowed, hp] at h⟩
    · exact HasEffect.illegal _
  case wfi =>
    unfold execWfi; split
    · exact ⟨_, rfl, .wfi rfl⟩
    · exact HasEffect.illegal _
  case sfenceVma =>
    unfold execSfenceVma; split
    next h => exact ⟨_, rfl, .sfence _ _ rfl fun hp => by simp [State.sfenceAllowed, hp] at h⟩
    · exact HasEffect.illegal _
  case jal => exact HasEffect.jump _ _ _ rfl fun h => even_add h (even_sext _)
  case jalr | cJalr => exact HasEffect.jump _ _ _ rfl fun _ => even_jalr _ _
  case fence | fenceI | cNop => exact HasEffect.retire _ rfl rfl
  case cJ => exact HasEffect.retireTo _ rfl fun h => even_add h (even_sext _)
  case cJr => exact HasEffect.retireTo _ rfl fun _ => even_jalr _ _
  case csrrw => exact HasEffect.csrInstr _ _ _ _ _ ⟨_, _, _, .inl rfl⟩ rfl
  case csrrs => exact HasEffect.csrInstr _ _ _ _ _ ⟨_, _, _, .inr (.inl rfl)⟩ rfl
  case csrrc => exact HasEffect.csrInstr _ _ _ _ _ ⟨_, _, _, .inr (.inr (.inl rfl))⟩ rfl
  case csrrwi => exact HasEffect.csrInstr _ _ _ _ _ ⟨_, _, _, .inr (.inr (.inr (.inl rfl)))⟩ rfl
  case csrrsi => exact HasEffect.csrInstr _ _ _ _ _ ⟨_, _, _, .inr (.inr (.inr (.inr (.inl rfl))))⟩ rfl
  case csrrci => exact HasEffect.csrInstr _ _ _ _ _ ⟨_, _, _, .inr (.inr (.inr (.inr (.inr rfl))))⟩ rfl
  case lui | auipc | addi | slti | sltiu | xori | ori | andi | slli | srli | srai | add | sub | sll | slt | sltu | xor
      | srl | sra | or | and | addiw | slliw | srliw | sraiw | addw | subw | sllw | srlw | sraw | mul | mulh | mulhsu
      | mulhu | div | divu | rem | remu | mulw | divw | divuw | remw | remuw | cAddi4spn | cAddi | cAddiw | cLi |
      cAddi16sp | cLui | cSrli | cSrai | cAndi | cSub | cXor | cOr | cAnd | cSubw | cAddw | cSlli | cMv | cAdd =>
    exact HasEffect.writeX _ _ _ rfl rfl
  case lb | lh | lw | lbu | lhu | lwu | ld | cLw | cLd | cLwsp | cLdsp =>
    exact HasEffect.loadX _ _ _ rfl rfl
  case sb | sh | sw | sd | cSw | cSd | cSwsp | cSdsp =>
    exact HasEffect.storeMemory _ _ rfl rfl
  case lrW | lrD =>
    exact HasEffect.loadReserved _ _ _ (by decide) rfl
  case scW | scD =>
    exact HasEffect.storeConditional _ _ _ rfl
  case amoswapW | amoaddW | amoxorW | amoandW | amoorW | amominW | amomaxW | amominuW | amomaxuW | amoswapD | amoaddD
      | amoxorD | amoandD | amoorD | amominD | amomaxD | amominuD | amomaxuD =>
    exact HasEffect.amo _ _ _ _ _ rfl
  case beq | bne | blt | bge | bltu | bgeu | cBeqz | cBnez =>
    exact HasEffect.branch _ _ _ rfl rfl (even_sext _)
  case flw | fld | cFld | cFldsp =>
    exact HasEffect.requireFp _ fun h => HasEffect.loadF _ _ _ rfl h rfl
  case fsw | fsd | cFsd | cFsdsp =>
    exact HasEffect.requireFp _ fun _ => HasEffect.storeMemory _ _ rfl rfl
  case feqS | fltS | fleS | feqD | fltD | fleD =>
    exact HasEffect.requireFp _ fun h => HasEffect.writeFpX _ _ rfl h
  case fsgnjS | fsgnjnS | fsgnjxS | fminS | fmaxS | fmvWX =>
    exact HasEffect.requireFp _ fun h => HasEffect.writeFp _ _ rfl h
  case fsgnjD | fsgnjnD | fsgnjxD | fminD | fmaxD | fmvDX =>
    exact HasEffect.requireFp _ fun h => HasEffect.writeFp _ _ rfl h
  case fmvXW | fclassS | fclassD | fmvXD =>
    exact HasEffect.requireFp _ fun _ => HasEffect.writeX _ _ _ rfl rfl
  case fcvtWS | fcvtWUS | fcvtLS | fcvtLUS | fcvtWD | fcvtWUD | fcvtLD | fcvtLUD =>
    exact HasEffect.requireFpRm _ _ fun h _ => HasEffect.writeFpX _ _ rfl h
  case fmaddS | fmsubS | fnmsubS | fnmaddS | faddS | fsubS | fmulS | fdivS | fsqrtS | fcvtSW | fcvtSWU | fcvtSL |
      fcvtSLU | fcvtSD =>
    exact HasEffect.requireFpRm _ _ fun h _ => HasEffect.writeFp _ _ rfl h
  case fmaddD | fmsubD | fnmsubD | fnmaddD | faddD | fsubD | fmulD | fdivD | fsqrtD | fcvtDS | fcvtDW | fcvtDWU |
      fcvtDL | fcvtDLU =>
    exact HasEffect.requireFpRm _ _ fun h _ => HasEffect.writeFp _ _ rfl h

/-- Every next state of an instruction has one of the shapes. -/
theorem effect_of_exec {i : Instr} {s t : State} (h : exec i s = .next t) : Effect i s t := by
  obtain ⟨u, hu, he⟩ := exec_hasEffect i s
  rw [h] at hu; cases hu; exact he

end Sys2Proof.Machine
end

