-- ==== Sys2Proof/Laws/Host.lean ====
section
/-! SUPPORT. What the host's writes can change, said once. -/

namespace Sys2Proof.Machine

open Sys2Proof

/-- A host write of a CSR changes CSRs and the TLBs at most. -/
theorem State.hostStoreCsr_frame (s : State) (c : Csr) (v : Word) :
    let t := s.hostStoreCsr c v
    t = { t with x := s.x, f := s.f, pc := s.pc, priv := s.priv, idle := s.idle, halted := s.halted, yielded := s.yielded,
                 extReq := s.extReq, ilrsc := s.ilrsc, mtimecmp := s.mtimecmp, tohost := s.tohost, fromhost := s.fromhost,
                 fromhostPending := s.fromhostPending, consoleOut := s.consoleOut, consoleIn := s.consoleIn, mem := s.mem,
                 mcycleEnd := s.mcycleEnd, hostInputs := s.hostInputs, cfg := s.cfg } := by
  have status (w : Word) : s.withMstatus w = { s with
      mstatus := w, tlbRead := (s.withMstatus w).tlbRead, tlbWrite := (s.withMstatus w).tlbWrite,
      tlbCode := (s.withMstatus w).tlbCode } := by unfold State.withMstatus; split <;> rfl
  have satp : s.writeSatp v = { s with
      satp := (s.writeSatp v).satp, tlbRead := (s.writeSatp v).tlbRead, tlbWrite := (s.writeSatp v).tlbWrite,
      tlbCode := (s.writeSatp v).tlbCode } := by
    simp only [State.writeSatp]; split_ifs <;> rfl
  cases c
  case mstatus => simp only [State.hostStoreCsr, csrWrite, State.writeMstatus]; rw [status]
  case sstatus => simp only [State.hostStoreCsr, csrWrite]; rw [status]
  case satp => simp only [State.hostStoreCsr, csrWrite]; rw [satp]
  all_goals rfl

end Sys2Proof.Machine
end

