-- ==== Sys2Proof/Laws/PerInstr.lean ====
section
/-! SUPPORT. What is said of every instruction as syntax, one lemma per constructor: the low two bits of its encoding are 11
exactly when it is four bytes long (30_encoding R301), so the fetch takes as many parcels as the encoder wrote. -/

namespace Sys2Proof.Laws.Length

open Sys2Proof

/-- The length of the instruction agrees with the low two bits of its word. -/
def Statement (i : Instr) : Prop :=
  match encode i with
  | .word w => slice w 0 2 = 3#2 ∧ i.ilen = 4
  | .half w => slice w 0 2 ≠ 3#2 ∧ i.ilen = 2

/-- The low two bits of a 32-bit word are those of its opcode. -/
theorem word_low (f : Fields32) : slice f.toWord 0 2 = slice f.opcode 0 2 := by
  apply BitVec.eq_of_getLsbD_eq
  intro i hi
  simp only [Fields32.toWord, slice, BitVec.getLsbD_append, BitVec.getLsbD_extractLsb']
  interval_cases i <;> simp

/-- The low two bits of a 16-bit word are its quadrant. -/
theorem half_low (f : Fields16) : slice f.toWord 0 2 = f.op := by
  apply BitVec.eq_of_getLsbD_eq
  intro i hi
  simp only [Fields16.toWord, slice, BitVec.getLsbD_append, BitVec.getLsbD_extractLsb']
  interval_cases i <;> simp

/-- A four-byte encoding whose opcode ends in 11. -/
theorem of_word {i : Instr} {f7 : BitVec 7} {rs2 rs1 rd : Reg} {f3 : BitVec 3} {op : BitVec 7}
    (h : encode i = .word (Fields32.toWord ⟨f7, rs2, rs1, f3, rd, op⟩)) (hop : slice op 0 2 = 3#2) : Statement i := by
  rw [Statement, Instr.ilen, h]
  exact ⟨(word_low _).trans hop, rfl⟩

/-- A two-byte encoding outside quadrant 3. -/
theorem of_half {i : Instr} {f3 : BitVec 3} {b12 : BitVec 1} {b11 : BitVec 2} {r9 : BitVec 3} {b6 : BitVec 2} {r4 : BitVec 3}
    {op : BitVec 2} (h : encode i = .half (Fields16.toWord ⟨f3, b12, b11, r9, b6, r4, op⟩)) (hop : op ≠ 3#2) :
    Statement i := by
  rw [Statement, Instr.ilen, h]
  exact ⟨fun hq => hop ((half_low _).symm.trans hq), rfl⟩

theorem lui (rd : Reg) (imm : BitVec 20) : Statement (.lui rd imm) := of_word rfl rfl
theorem auipc (rd : Reg) (imm : BitVec 20) : Statement (.auipc rd imm) := of_word rfl rfl
theorem addi (rd rs1 : Reg) (imm : BitVec 12) : Statement (.addi rd rs1 imm) := of_word rfl rfl
theorem slti (rd rs1 : Reg) (imm : BitVec 12) : Statement (.slti rd rs1 imm) := of_word rfl rfl
theorem sltiu (rd rs1 : Reg) (imm : BitVec 12) : Statement (.sltiu rd rs1 imm) := of_word rfl rfl
theorem xori (rd rs1 : Reg) (imm : BitVec 12) : Statement (.xori rd rs1 imm) := of_word rfl rfl
theorem ori (rd rs1 : Reg) (imm : BitVec 12) : Statement (.ori rd rs1 imm) := of_word rfl rfl
theorem andi (rd rs1 : Reg) (imm : BitVec 12) : Statement (.andi rd rs1 imm) := of_word rfl rfl
theorem slli (rd rs1 : Reg) (shamt : BitVec 6) : Statement (.slli rd rs1 shamt) := of_word rfl rfl
theorem srli (rd rs1 : Reg) (shamt : BitVec 6) : Statement (.srli rd rs1 shamt) := of_word rfl rfl
theorem srai (rd rs1 : Reg) (shamt : BitVec 6) : Statement (.srai rd rs1 shamt) := of_word rfl rfl
theorem add (rd rs1 rs2 : Reg) : Statement (.add rd rs1 rs2) := of_word rfl rfl
theorem sub (rd rs1 rs2 : Reg) : Statement (.sub rd rs1 rs2) := of_word rfl rfl
theorem sll (rd rs1 rs2 : Reg) : Statement (.sll rd rs1 rs2) := of_word rfl rfl
theorem slt (rd rs1 rs2 : Reg) : Statement (.slt rd rs1 rs2) := of_word rfl rfl
theorem sltu (rd rs1 rs2 : Reg) : Statement (.sltu rd rs1 rs2) := of_word rfl rfl
theorem xor (rd rs1 rs2 : Reg) : Statement (.xor rd rs1 rs2) := of_word rfl rfl
theorem srl (rd rs1 rs2 : Reg) : Statement (.srl rd rs1 rs2) := of_word rfl rfl
theorem sra (rd rs1 rs2 : Reg) : Statement (.sra rd rs1 rs2) := of_word rfl rfl
theorem or (rd rs1 rs2 : Reg) : Statement (.or rd rs1 rs2) := of_word rfl rfl
theorem and (rd rs1 rs2 : Reg) : Statement (.and rd rs1 rs2) := of_word rfl rfl
theorem addiw (rd rs1 : Reg) (imm : BitVec 12) : Statement (.addiw rd rs1 imm) := of_word rfl rfl
theorem slliw (rd rs1 : Reg) (shamt : BitVec 5) : Statement (.slliw rd rs1 shamt) := of_word rfl rfl
theorem srliw (rd rs1 : Reg) (shamt : BitVec 5) : Statement (.srliw rd rs1 shamt) := of_word rfl rfl
theorem sraiw (rd rs1 : Reg) (shamt : BitVec 5) : Statement (.sraiw rd rs1 shamt) := of_word rfl rfl
theorem addw (rd rs1 rs2 : Reg) : Statement (.addw rd rs1 rs2) := of_word rfl rfl
theorem subw (rd rs1 rs2 : Reg) : Statement (.subw rd rs1 rs2) := of_word rfl rfl
theorem sllw (rd rs1 rs2 : Reg) : Statement (.sllw rd rs1 rs2) := of_word rfl rfl
theorem srlw (rd rs1 rs2 : Reg) : Statement (.srlw rd rs1 rs2) := of_word rfl rfl
theorem sraw (rd rs1 rs2 : Reg) : Statement (.sraw rd rs1 rs2) := of_word rfl rfl
theorem jal (rd : Reg) (imm : BitVec 20) : Statement (.jal rd imm) := of_word rfl rfl
theorem jalr (rd rs1 : Reg) (imm : BitVec 12) : Statement (.jalr rd rs1 imm) := of_word rfl rfl
theorem beq (rs1 rs2 : Reg) (imm : BitVec 12) : Statement (.beq rs1 rs2 imm) := of_word rfl rfl
theorem bne (rs1 rs2 : Reg) (imm : BitVec 12) : Statement (.bne rs1 rs2 imm) := of_word rfl rfl
theorem blt (rs1 rs2 : Reg) (imm : BitVec 12) : Statement (.blt rs1 rs2 imm) := of_word rfl rfl
theorem bge (rs1 rs2 : Reg) (imm : BitVec 12) : Statement (.bge rs1 rs2 imm) := of_word rfl rfl
theorem bltu (rs1 rs2 : Reg) (imm : BitVec 12) : Statement (.bltu rs1 rs2 imm) := of_word rfl rfl
theorem bgeu (rs1 rs2 : Reg) (imm : BitVec 12) : Statement (.bgeu rs1 rs2 imm) := of_word rfl rfl
theorem lb (rd rs1 : Reg) (imm : BitVec 12) : Statement (.lb rd rs1 imm) := of_word rfl rfl
theorem lh (rd rs1 : Reg) (imm : BitVec 12) : Statement (.lh rd rs1 imm) := of_word rfl rfl
theorem lw (rd rs1 : Reg) (imm : BitVec 12) : Statement (.lw rd rs1 imm) := of_word rfl rfl
theorem lbu (rd rs1 : Reg) (imm : BitVec 12) : Statement (.lbu rd rs1 imm) := of_word rfl rfl
theorem lhu (rd rs1 : Reg) (imm : BitVec 12) : Statement (.lhu rd rs1 imm) := of_word rfl rfl
theorem lwu (rd rs1 : Reg) (imm : BitVec 12) : Statement (.lwu rd rs1 imm) := of_word rfl rfl
theorem ld (rd rs1 : Reg) (imm : BitVec 12) : Statement (.ld rd rs1 imm) := of_word rfl rfl
theorem sb (rs1 rs2 : Reg) (imm : BitVec 12) : Statement (.sb rs1 rs2 imm) := of_word rfl rfl
theorem sh (rs1 rs2 : Reg) (imm : BitVec 12) : Statement (.sh rs1 rs2 imm) := of_word rfl rfl
theorem sw (rs1 rs2 : Reg) (imm : BitVec 12) : Statement (.sw rs1 rs2 imm) := of_word rfl rfl
theorem sd (rs1 rs2 : Reg) (imm : BitVec 12) : Statement (.sd rs1 rs2 imm) := of_word rfl rfl
theorem fence (fm pred succ : BitVec 4) (rs1 rd : Reg) : Statement (.fence fm pred succ rs1 rd) := of_word rfl rfl
theorem mul (rd rs1 rs2 : Reg) : Statement (.mul rd rs1 rs2) := of_word rfl rfl
theorem mulh (rd rs1 rs2 : Reg) : Statement (.mulh rd rs1 rs2) := of_word rfl rfl
theorem mulhsu (rd rs1 rs2 : Reg) : Statement (.mulhsu rd rs1 rs2) := of_word rfl rfl
theorem mulhu (rd rs1 rs2 : Reg) : Statement (.mulhu rd rs1 rs2) := of_word rfl rfl
theorem div (rd rs1 rs2 : Reg) : Statement (.div rd rs1 rs2) := of_word rfl rfl
theorem divu (rd rs1 rs2 : Reg) : Statement (.divu rd rs1 rs2) := of_word rfl rfl
theorem rem (rd rs1 rs2 : Reg) : Statement (.rem rd rs1 rs2) := of_word rfl rfl
theorem remu (rd rs1 rs2 : Reg) : Statement (.remu rd rs1 rs2) := of_word rfl rfl
theorem mulw (rd rs1 rs2 : Reg) : Statement (.mulw rd rs1 rs2) := of_word rfl rfl
theorem divw (rd rs1 rs2 : Reg) : Statement (.divw rd rs1 rs2) := of_word rfl rfl
theorem divuw (rd rs1 rs2 : Reg) : Statement (.divuw rd rs1 rs2) := of_word rfl rfl
theorem remw (rd rs1 rs2 : Reg) : Statement (.remw rd rs1 rs2) := of_word rfl rfl
theorem remuw (rd rs1 rs2 : Reg) : Statement (.remuw rd rs1 rs2) := of_word rfl rfl
theorem lrW (rd rs1 : Reg) (aq rl : BitVec 1) : Statement (.lrW rd rs1 aq rl) := of_word rfl rfl
theorem scW (rd rs1 rs2 : Reg) (aq rl : BitVec 1) : Statement (.scW rd rs1 rs2 aq rl) := of_word rfl rfl
theorem amoswapW (rd rs1 rs2 : Reg) (aq rl : BitVec 1) : Statement (.amoswapW rd rs1 rs2 aq rl) := of_word rfl rfl
theorem amoaddW (rd rs1 rs2 : Reg) (aq rl : BitVec 1) : Statement (.amoaddW rd rs1 rs2 aq rl) := of_word rfl rfl
theorem amoxorW (rd rs1 rs2 : Reg) (aq rl : BitVec 1) : Statement (.amoxorW rd rs1 rs2 aq rl) := of_word rfl rfl
theorem amoandW (rd rs1 rs2 : Reg) (aq rl : BitVec 1) : Statement (.amoandW rd rs1 rs2 aq rl) := of_word rfl rfl
theorem amoorW (rd rs1 rs2 : Reg) (aq rl : BitVec 1) : Statement (.amoorW rd rs1 rs2 aq rl) := of_word rfl rfl
theorem amominW (rd rs1 rs2 : Reg) (aq rl : BitVec 1) : Statement (.amominW rd rs1 rs2 aq rl) := of_word rfl rfl
theorem amomaxW (rd rs1 rs2 : Reg) (aq rl : BitVec 1) : Statement (.amomaxW rd rs1 rs2 aq rl) := of_word rfl rfl
theorem amominuW (rd rs1 rs2 : Reg) (aq rl : BitVec 1) : Statement (.amominuW rd rs1 rs2 aq rl) := of_word rfl rfl
theorem amomaxuW (rd rs1 rs2 : Reg) (aq rl : BitVec 1) : Statement (.amomaxuW rd rs1 rs2 aq rl) := of_word rfl rfl
theorem lrD (rd rs1 : Reg) (aq rl : BitVec 1) : Statement (.lrD rd rs1 aq rl) := of_word rfl rfl
theorem scD (rd rs1 rs2 : Reg) (aq rl : BitVec 1) : Statement (.scD rd rs1 rs2 aq rl) := of_word rfl rfl
theorem amoswapD (rd rs1 rs2 : Reg) (aq rl : BitVec 1) : Statement (.amoswapD rd rs1 rs2 aq rl) := of_word rfl rfl
theorem amoaddD (rd rs1 rs2 : Reg) (aq rl : BitVec 1) : Statement (.amoaddD rd rs1 rs2 aq rl) := of_word rfl rfl
theorem amoxorD (rd rs1 rs2 : Reg) (aq rl : BitVec 1) : Statement (.amoxorD rd rs1 rs2 aq rl) := of_word rfl rfl
theorem amoandD (rd rs1 rs2 : Reg) (aq rl : BitVec 1) : Statement (.amoandD rd rs1 rs2 aq rl) := of_word rfl rfl
theorem amoorD (rd rs1 rs2 : Reg) (aq rl : BitVec 1) : Statement (.amoorD rd rs1 rs2 aq rl) := of_word rfl rfl
theorem amominD (rd rs1 rs2 : Reg) (aq rl : BitVec 1) : Statement (.amominD rd rs1 rs2 aq rl) := of_word rfl rfl
theorem amomaxD (rd rs1 rs2 : Reg) (aq rl : BitVec 1) : Statement (.amomaxD rd rs1 rs2 aq rl) := of_word rfl rfl
theorem amominuD (rd rs1 rs2 : Reg) (aq rl : BitVec 1) : Statement (.amominuD rd rs1 rs2 aq rl) := of_word rfl rfl
theorem amomaxuD (rd rs1 rs2 : Reg) (aq rl : BitVec 1) : Statement (.amomaxuD rd rs1 rs2 aq rl) := of_word rfl rfl
theorem flw (rd rs1 : Reg) (imm : BitVec 12) : Statement (.flw rd rs1 imm) := of_word rfl rfl
theorem fsw (rs1 rs2 : Reg) (imm : BitVec 12) : Statement (.fsw rs1 rs2 imm) := of_word rfl rfl
theorem fmaddS (rd rs1 rs2 rs3 : Reg) (rm : RmField) : Statement (.fmaddS rd rs1 rs2 rs3 rm) := of_word rfl rfl
theorem fmsubS (rd rs1 rs2 rs3 : Reg) (rm : RmField) : Statement (.fmsubS rd rs1 rs2 rs3 rm) := of_word rfl rfl
theorem fnmsubS (rd rs1 rs2 rs3 : Reg) (rm : RmField) : Statement (.fnmsubS rd rs1 rs2 rs3 rm) := of_word rfl rfl
theorem fnmaddS (rd rs1 rs2 rs3 : Reg) (rm : RmField) : Statement (.fnmaddS rd rs1 rs2 rs3 rm) := of_word rfl rfl
theorem faddS (rd rs1 rs2 : Reg) (rm : RmField) : Statement (.faddS rd rs1 rs2 rm) := of_word rfl rfl
theorem fsubS (rd rs1 rs2 : Reg) (rm : RmField) : Statement (.fsubS rd rs1 rs2 rm) := of_word rfl rfl
theorem fmulS (rd rs1 rs2 : Reg) (rm : RmField) : Statement (.fmulS rd rs1 rs2 rm) := of_word rfl rfl
theorem fdivS (rd rs1 rs2 : Reg) (rm : RmField) : Statement (.fdivS rd rs1 rs2 rm) := of_word rfl rfl
theorem fsqrtS (rd rs1 : Reg) (rm : RmField) : Statement (.fsqrtS rd rs1 rm) := of_word rfl rfl
theorem fsgnjS (rd rs1 rs2 : Reg) : Statement (.fsgnjS rd rs1 rs2) := of_word rfl rfl
theorem fsgnjnS (rd rs1 rs2 : Reg) : Statement (.fsgnjnS rd rs1 rs2) := of_word rfl rfl
theorem fsgnjxS (rd rs1 rs2 : Reg) : Statement (.fsgnjxS rd rs1 rs2) := of_word rfl rfl
theorem fminS (rd rs1 rs2 : Reg) : Statement (.fminS rd rs1 rs2) := of_word rfl rfl
theorem fmaxS (rd rs1 rs2 : Reg) : Statement (.fmaxS rd rs1 rs2) := of_word rfl rfl
theorem fcvtWS (rd rs1 : Reg) (rm : RmField) : Statement (.fcvtWS rd rs1 rm) := of_word rfl rfl
theorem fcvtWUS (rd rs1 : Reg) (rm : RmField) : Statement (.fcvtWUS rd rs1 rm) := of_word rfl rfl
theorem fmvXW (rd rs1 : Reg) : Statement (.fmvXW rd rs1) := of_word rfl rfl
theorem feqS (rd rs1 rs2 : Reg) : Statement (.feqS rd rs1 rs2) := of_word rfl rfl
theorem fltS (rd rs1 rs2 : Reg) : Statement (.fltS rd rs1 rs2) := of_word rfl rfl
theorem fleS (rd rs1 rs2 : Reg) : Statement (.fleS rd rs1 rs2) := of_word rfl rfl
theorem fclassS (rd rs1 : Reg) : Statement (.fclassS rd rs1) := of_word rfl rfl
theorem fcvtSW (rd rs1 : Reg) (rm : RmField) : Statement (.fcvtSW rd rs1 rm) := of_word rfl rfl
theorem fcvtSWU (rd rs1 : Reg) (rm : RmField) : Statement (.fcvtSWU rd rs1 rm) := of_word rfl rfl
theorem fmvWX (rd rs1 : Reg) : Statement (.fmvWX rd rs1) := of_word rfl rfl
theorem fcvtLS (rd rs1 : Reg) (rm : RmField) : Statement (.fcvtLS rd rs1 rm) := of_word rfl rfl
theorem fcvtLUS (rd rs1 : Reg) (rm : RmField) : Statement (.fcvtLUS rd rs1 rm) := of_word rfl rfl
theorem fcvtSL (rd rs1 : Reg) (rm : RmField) : Statement (.fcvtSL rd rs1 rm) := of_word rfl rfl
theorem fcvtSLU (rd rs1 : Reg) (rm : RmField) : Statement (.fcvtSLU rd rs1 rm) := of_word rfl rfl
theorem fld (rd rs1 : Reg) (imm : BitVec 12) : Statement (.fld rd rs1 imm) := of_word rfl rfl
theorem fsd (rs1 rs2 : Reg) (imm : BitVec 12) : Statement (.fsd rs1 rs2 imm) := of_word rfl rfl
theorem fmaddD (rd rs1 rs2 rs3 : Reg) (rm : RmField) : Statement (.fmaddD rd rs1 rs2 rs3 rm) := of_word rfl rfl
theorem fmsubD (rd rs1 rs2 rs3 : Reg) (rm : RmField) : Statement (.fmsubD rd rs1 rs2 rs3 rm) := of_word rfl rfl
theorem fnmsubD (rd rs1 rs2 rs3 : Reg) (rm : RmField) : Statement (.fnmsubD rd rs1 rs2 rs3 rm) := of_word rfl rfl
theorem fnmaddD (rd rs1 rs2 rs3 : Reg) (rm : RmField) : Statement (.fnmaddD rd rs1 rs2 rs3 rm) := of_word rfl rfl
theorem faddD (rd rs1 rs2 : Reg) (rm : RmField) : Statement (.faddD rd rs1 rs2 rm) := of_word rfl rfl
theorem fsubD (rd rs1 rs2 : Reg) (rm : RmField) : Statement (.fsubD rd rs1 rs2 rm) := of_word rfl rfl
theorem fmulD (rd rs1 rs2 : Reg) (rm : RmField) : Statement (.fmulD rd rs1 rs2 rm) := of_word rfl rfl
theorem fdivD (rd rs1 rs2 : Reg) (rm : RmField) : Statement (.fdivD rd rs1 rs2 rm) := of_word rfl rfl
theorem fsqrtD (rd rs1 : Reg) (rm : RmField) : Statement (.fsqrtD rd rs1 rm) := of_word rfl rfl
theorem fsgnjD (rd rs1 rs2 : Reg) : Statement (.fsgnjD rd rs1 rs2) := of_word rfl rfl
theorem fsgnjnD (rd rs1 rs2 : Reg) : Statement (.fsgnjnD rd rs1 rs2) := of_word rfl rfl
theorem fsgnjxD (rd rs1 rs2 : Reg) : Statement (.fsgnjxD rd rs1 rs2) := of_word rfl rfl
theorem fminD (rd rs1 rs2 : Reg) : Statement (.fminD rd rs1 rs2) := of_word rfl rfl
theorem fmaxD (rd rs1 rs2 : Reg) : Statement (.fmaxD rd rs1 rs2) := of_word rfl rfl
theorem fcvtSD (rd rs1 : Reg) (rm : RmField) : Statement (.fcvtSD rd rs1 rm) := of_word rfl rfl
theorem fcvtDS (rd rs1 : Reg) (rm : RmField) : Statement (.fcvtDS rd rs1 rm) := of_word rfl rfl
theorem feqD (rd rs1 rs2 : Reg) : Statement (.feqD rd rs1 rs2) := of_word rfl rfl
theorem fltD (rd rs1 rs2 : Reg) : Statement (.fltD rd rs1 rs2) := of_word rfl rfl
theorem fleD (rd rs1 rs2 : Reg) : Statement (.fleD rd rs1 rs2) := of_word rfl rfl
theorem fclassD (rd rs1 : Reg) : Statement (.fclassD rd rs1) := of_word rfl rfl
theorem fcvtWD (rd rs1 : Reg) (rm : RmField) : Statement (.fcvtWD rd rs1 rm) := of_word rfl rfl
theorem fcvtWUD (rd rs1 : Reg) (rm : RmField) : Statement (.fcvtWUD rd rs1 rm) := of_word rfl rfl
theorem fcvtDW (rd rs1 : Reg) (rm : RmField) : Statement (.fcvtDW rd rs1 rm) := of_word rfl rfl
theorem fcvtDWU (rd rs1 : Reg) (rm : RmField) : Statement (.fcvtDWU rd rs1 rm) := of_word rfl rfl
theorem fcvtLD (rd rs1 : Reg) (rm : RmField) : Statement (.fcvtLD rd rs1 rm) := of_word rfl rfl
theorem fcvtLUD (rd rs1 : Reg) (rm : RmField) : Statement (.fcvtLUD rd rs1 rm) := of_word rfl rfl
theorem fmvXD (rd rs1 : Reg) : Statement (.fmvXD rd rs1) := of_word rfl rfl
theorem fcvtDL (rd rs1 : Reg) (rm : RmField) : Statement (.fcvtDL rd rs1 rm) := of_word rfl rfl
theorem fcvtDLU (rd rs1 : Reg) (rm : RmField) : Statement (.fcvtDLU rd rs1 rm) := of_word rfl rfl
theorem fmvDX (rd rs1 : Reg) : Statement (.fmvDX rd rs1) := of_word rfl rfl
theorem csrrw (rd rs1 : Reg) (csr : BitVec 12) : Statement (.csrrw rd rs1 csr) := of_word rfl rfl
theorem csrrs (rd rs1 : Reg) (csr : BitVec 12) : Statement (.csrrs rd rs1 csr) := of_word rfl rfl
theorem csrrc (rd rs1 : Reg) (csr : BitVec 12) : Statement (.csrrc rd rs1 csr) := of_word rfl rfl
theorem csrrwi (rd : Reg) (uimm : BitVec 5) (csr : BitVec 12) : Statement (.csrrwi rd uimm csr) := of_word rfl rfl
theorem csrrsi (rd : Reg) (uimm : BitVec 5) (csr : BitVec 12) : Statement (.csrrsi rd uimm csr) := of_word rfl rfl
theorem csrrci (rd : Reg) (uimm : BitVec 5) (csr : BitVec 12) : Statement (.csrrci rd uimm csr) := of_word rfl rfl
theorem fenceI (imm : BitVec 12) (rs1 rd : Reg) : Statement (.fenceI imm rs1 rd) := of_word rfl rfl
theorem ecall : Statement .ecall := of_word rfl rfl
theorem ebreak : Statement .ebreak := of_word rfl rfl
theorem mret : Statement .mret := of_word rfl rfl
theorem sret : Statement .sret := of_word rfl rfl
theorem wfi : Statement .wfi := of_word rfl rfl
theorem sfenceVma (rs1 rs2 : Reg) : Statement (.sfenceVma rs1 rs2) := of_word rfl rfl
theorem cAddi4spn (rd : CReg) (nzuimm : BitVec 8) : Statement (.cAddi4spn rd nzuimm) := of_half rfl (by decide)
theorem cFld (rd rs1 : CReg) (uimm : BitVec 5) : Statement (.cFld rd rs1 uimm) := of_half rfl (by decide)
theorem cLw (rd rs1 : CReg) (uimm : BitVec 5) : Statement (.cLw rd rs1 uimm) := of_half rfl (by decide)
theorem cLd (rd rs1 : CReg) (uimm : BitVec 5) : Statement (.cLd rd rs1 uimm) := of_half rfl (by decide)
theorem cFsd (rs1 rs2 : CReg) (uimm : BitVec 5) : Statement (.cFsd rs1 rs2 uimm) := of_half rfl (by decide)
theorem cSw (rs1 rs2 : CReg) (uimm : BitVec 5) : Statement (.cSw rs1 rs2 uimm) := of_half rfl (by decide)
theorem cSd (rs1 rs2 : CReg) (uimm : BitVec 5) : Statement (.cSd rs1 rs2 uimm) := of_half rfl (by decide)
theorem cNop (imm : BitVec 6) : Statement (.cNop imm) := of_half rfl (by decide)
theorem cAddi (rd : Reg) (imm : BitVec 6) : Statement (.cAddi rd imm) := of_half rfl (by decide)
theorem cAddiw (rd : Reg) (imm : BitVec 6) : Statement (.cAddiw rd imm) := of_half rfl (by decide)
theorem cLi (rd : Reg) (imm : BitVec 6) : Statement (.cLi rd imm) := of_half rfl (by decide)
theorem cAddi16sp (nzimm : BitVec 6) : Statement (.cAddi16sp nzimm) := of_half rfl (by decide)
theorem cLui (rd : Reg) (nzimm : BitVec 6) : Statement (.cLui rd nzimm) := of_half rfl (by decide)
theorem cSrli (rd : CReg) (shamt : BitVec 6) : Statement (.cSrli rd shamt) := of_half rfl (by decide)
theorem cSrai (rd : CReg) (shamt : BitVec 6) : Statement (.cSrai rd shamt) := of_half rfl (by decide)
theorem cAndi (rd : CReg) (imm : BitVec 6) : Statement (.cAndi rd imm) := of_half rfl (by decide)
theorem cSub (rd rs2 : CReg) : Statement (.cSub rd rs2) := of_half rfl (by decide)
theorem cXor (rd rs2 : CReg) : Statement (.cXor rd rs2) := of_half rfl (by decide)
theorem cOr (rd rs2 : CReg) : Statement (.cOr rd rs2) := of_half rfl (by decide)
theorem cAnd (rd rs2 : CReg) : Statement (.cAnd rd rs2) := of_half rfl (by decide)
theorem cSubw (rd rs2 : CReg) : Statement (.cSubw rd rs2) := of_half rfl (by decide)
theorem cAddw (rd rs2 : CReg) : Statement (.cAddw rd rs2) := of_half rfl (by decide)
theorem cJ (imm : BitVec 11) : Statement (.cJ imm) := of_half rfl (by decide)
theorem cBeqz (rs1 : CReg) (imm : BitVec 8) : Statement (.cBeqz rs1 imm) := of_half rfl (by decide)
theorem cBnez (rs1 : CReg) (imm : BitVec 8) : Statement (.cBnez rs1 imm) := of_half rfl (by decide)
theorem cSlli (rd : Reg) (shamt : BitVec 6) : Statement (.cSlli rd shamt) := of_half rfl (by decide)
theorem cFldsp (rd : Reg) (uimm : BitVec 6) : Statement (.cFldsp rd uimm) := of_half rfl (by decide)
theorem cLwsp (rd : Reg) (uimm : BitVec 6) : Statement (.cLwsp rd uimm) := of_half rfl (by decide)
theorem cLdsp (rd : Reg) (uimm : BitVec 6) : Statement (.cLdsp rd uimm) := of_half rfl (by decide)
theorem cJr (rs1 : Reg) : Statement (.cJr rs1) := of_half rfl (by decide)
theorem cMv (rd rs2 : Reg) : Statement (.cMv rd rs2) := of_half rfl (by decide)
theorem cEbreak : Statement .cEbreak := of_half rfl (by decide)
theorem cJalr (rs1 : Reg) : Statement (.cJalr rs1) := of_half rfl (by decide)
theorem cAdd (rd rs2 : Reg) : Statement (.cAdd rd rs2) := of_half rfl (by decide)
theorem cFsdsp (rs2 : Reg) (uimm : BitVec 6) : Statement (.cFsdsp rs2 uimm) := of_half rfl (by decide)
theorem cSwsp (rs2 : Reg) (uimm : BitVec 6) : Statement (.cSwsp rs2 uimm) := of_half rfl (by decide)
theorem cSdsp (rs2 : Reg) (uimm : BitVec 6) : Statement (.cSdsp rs2 uimm) := of_half rfl (by decide)

end Sys2Proof.Laws.Length
end

