-- ==== Sys2Proof/Tests/Slice0.lean ====
section
/-! SUPPORT. Tests: ill-formed terms, decoding, single steps with the expected values of spec/95, spec/96 and spec/97, and a
witness for the hypotheses of each statement. -/

namespace Sys2Proof.Machine

open Sys2Proof

/-- The state with `f[r]` set, `mstatus` untouched. -/
def State.putF (s : State) (r : Reg) (v : Word) : State := { s with f := s.f.set r.toNat v r.isLt }

/-- The state with the doubleword `v` at `0x80001000`. -/
def State.withData (s : State) (v : Nat) : State := { s with mem := s.mem.store 0x80001000 8 v }

end Sys2Proof.Machine

namespace Sys2Proof.Tests

open Sys2Proof Sys2Proof.Machine

/-- The machine in RAM in M-mode, with the floating-point unit on. -/
def base : State := { State.reset with pc := 0x80000000#64, mtvec := 0x80000100#64, mstatus := 0x2000#64 }

/-- What the next step, with the instruction `w` to fetch, leaves: `f` of the next state. -/
def result {α : Type} (s : State) (w : Nat) (f : State → α) : Option α :=
  match step (s.withFetchWord (if w % 4 = 3 then 32 else 16) w) with
  | .next t => some (f t)
  | _ => none

/-! ## Well-formedness: for each constraint of spec/opcode_table.json, a term that the check refuses -/

theorem test_wf_cAddi4spn_zero : Instr.wellFormed (.cAddi4spn 0#3 0#8) = false := by decide
theorem test_wf_cAddi_x0 : Instr.wellFormed (.cAddi 0#5 1#6) = false := by decide
theorem test_wf_cAddiw_x0 : Instr.wellFormed (.cAddiw 0#5 1#6) = false := by decide
theorem test_wf_cAddi16sp_zero : Instr.wellFormed (.cAddi16sp 0#6) = false := by decide
theorem test_wf_cLui_x2 : Instr.wellFormed (.cLui 2#5 1#6) = false := by decide
theorem test_wf_cLui_zero : Instr.wellFormed (.cLui 1#5 0#6) = false := by decide
theorem test_wf_cLwsp_x0 : Instr.wellFormed (.cLwsp 0#5 1#6) = false := by decide
theorem test_wf_cLdsp_x0 : Instr.wellFormed (.cLdsp 0#5 1#6) = false := by decide
theorem test_wf_cJr_x0 : Instr.wellFormed (.cJr 0#5) = false := by decide
theorem test_wf_cMv_x0 : Instr.wellFormed (.cMv 1#5 0#5) = false := by decide
theorem test_wf_cJalr_x0 : Instr.wellFormed (.cJalr 0#5) = false := by decide
theorem test_wf_cAdd_x0 : Instr.wellFormed (.cAdd 1#5 0#5) = false := by decide

/-! ## Decoding: for every constructor a word whose fields were laid out from the encoding columns of
spec/opcode_table.json (random operands, scrambled immediates by `imm_assembly`) -/

theorem test_decode_rv64i_compute_part1 :
    [0x52e6b437, 0xf2a74d97, 0x269e0d13, 0x65132713, 0xa6a3b413, 0xc5c4f93, 0x128b6f13, 0xd23f7813,
     0x12f9013, 0x18d813, 0x419dd993, 0x1318833, 0x40d90433, 0xe21db3, 0x1e72eb3, 0xf635b3].map (decodeTableWord 32) =
      [some (.lui 0x8#5 0x52e6b#20),
       some (.auipc 0x1b#5 0xf2a74#20),
       some (.addi 0x1a#5 0x1c#5 0x269#12),
       some (.slti 0xe#5 0x6#5 0x651#12),
       some (.sltiu 0x8#5 0x7#5 0xa6a#12),
       some (.xori 0x1f#5 0x18#5 0xc5#12),
       some (.ori 0x1e#5 0x16#5 0x128#12),
       some (.andi 0x10#5 0x1e#5 0xd23#12),
       some (.slli 0x0#5 0x1f#5 0x12#6),
       some (.srli 0x10#5 0x11#5 0x1#6),
       some (.srai 0x13#5 0x1b#5 0x19#6),
       some (.add 0x10#5 0x3#5 0x13#5),
       some (.sub 0x8#5 0x12#5 0xd#5),
       some (.sll 0x1b#5 0x4#5 0xe#5),
       some (.slt 0x1d#5 0xe#5 0x1e#5),
       some (.sltu 0xb#5 0xc#5 0xf#5)] := by decide

theorem test_decode_rv64i_compute_part2 :
    [0x19940b3, 0xd333, 0x41035733, 0x10d64b3, 0x1e27bb3, 0x3d9c071b, 0x138979b, 0x1115e9b,
     0x40ad5a1b, 0x1218dbb, 0x41ac84bb, 0xc192bb, 0x1b15c3b, 0x408c503b].map (decodeTableWord 32) =
      [some (.xor 0x1#5 0x12#5 0x19#5),
       some (.srl 0x6#5 0x1#5 0x0#5),
       some (.sra 0xe#5 0x6#5 0x10#5),
       some (.or 0x9#5 0x1a#5 0x10#5),
       some (.and 0x17#5 0x4#5 0x1e#5),
       some (.addiw 0xe#5 0x18#5 0x3d9#12),
       some (.slliw 0xf#5 0x11#5 0x13#5),
       some (.srliw 0x1d#5 0x2#5 0x11#5),
       some (.sraiw 0x14#5 0x1a#5 0xa#5),
       some (.addw 0x1b#5 0x3#5 0x12#5),
       some (.subw 0x9#5 0x19#5 0x1a#5),
       some (.sllw 0x5#5 0x3#5 0xc#5),
       some (.srlw 0x18#5 0x2#5 0x1b#5),
       some (.sraw 0x0#5 0x18#5 0x8#5)] := by decide

theorem test_decode_rv64i_control_transfer :
    [0x3926306f, 0xa1708367, 0xa09f06e3, 0x953f18e3, 0xf29d4de3, 0xfd650e3, 0x93bd64e3, 0x95e67ae3].map (decodeTableWord 32) =
      [some (.jal 0x0#5 0x319c9#20),
       some (.jalr 0x6#5 0x1#5 0xa17#12),
       some (.beq 0x1e#5 0x9#5 0xd06#12),
       some (.bne 0x1e#5 0x13#5 0xca8#12),
       some (.blt 0x1a#5 0x9#5 0xf9d#12),
       some (.bge 0xc#5 0x1d#5 0x470#12),
       some (.bltu 0x1a#5 0x1b#5 0xc94#12),
       some (.bgeu 0xc#5 0x1e#5 0xcaa#12)] := by decide

theorem test_decode_rv64i_load_store_fence :
    [0x658c8a03, 0xcb19283, 0xf9ebaa83, 0x3898c183, 0xbecd783, 0x8e81e703, 0xdbc4b683, 0x22178ea3,
     0x4a2395a3, 0x6b4ca223, 0x24edb6a3, 0x8a6a038f].map (decodeTableWord 32) =
      [some (.lb 0x14#5 0x19#5 0x658#12),
       some (.lh 0x5#5 0x3#5 0xcb#12),
       some (.lw 0x15#5 0x17#5 0xf9e#12),
       some (.lbu 0x3#5 0x11#5 0x389#12),
       some (.lhu 0xf#5 0x19#5 0xbe#12),
       some (.lwu 0xe#5 0x3#5 0x8e8#12),
       some (.ld 0xd#5 0x9#5 0xdbc#12),
       some (.sb 0xf#5 0x1#5 0x23d#12),
       some (.sh 0x7#5 0x2#5 0x4ab#12),
       some (.sw 0x19#5 0x14#5 0x6a4#12),
       some (.sd 0x1b#5 0xe#5 0x24d#12),
       some (.fence 0x8#4 0xa#4 0x6#4 0x14#5 0x7#5)] := by decide

theorem test_decode_m_muldiv :
    [0x22781b3, 0x2271633, 0x2f8aa33, 0x36d3533, 0x2edc833, 0x297dab3, 0x24465b3, 0x261fbb3,
     0x2e38fbb, 0x23a433b, 0x38fd53b, 0x21860bb, 0x355723b].map (decodeTableWord 32) =
      [some (.mul 0x3#5 0xf#5 0x2#5),
       some (.mulh 0xc#5 0xe#5 0x2#5),
       some (.mulhsu 0x14#5 0x11#5 0xf#5),
       some (.mulhu 0xa#5 0x1a#5 0x16#5),
       some (.div 0x10#5 0x1b#5 0xe#5),
       some (.divu 0x15#5 0xf#5 0x9#5),
       some (.rem 0xb#5 0x8#5 0x4#5),
       some (.remu 0x17#5 0x3#5 0x6#5),
       some (.mulw 0x1f#5 0x7#5 0xe#5),
       some (.divw 0x6#5 0x14#5 0x3#5),
       some (.divuw 0xa#5 0x1f#5 0x18#5),
       some (.remw 0x1#5 0x10#5 0x1#5),
       some (.remuw 0x4#5 0xa#5 0x15#5)] := by decide

theorem test_decode_a_atomics_part1 :
    [0x100125af, 0x1c38ab2f, 0xe4ca42f, 0x12a02f, 0x207a20af, 0x674225af, 0x467729af, 0x84b9a5af,
     0xa715252f, 0xc62ea12f, 0xe01ea12f, 0x1406b02f, 0x1ef8372f, 0x86bb2af, 0x731bf2f, 0x25e731af].map (decodeTableWord 32) =
      [some (.lrW 0xb#5 0x2#5 0x0#1 0x0#1),
       some (.scW 0x16#5 0x11#5 0x3#5 0x1#1 0x0#1),
       some (.amoswapW 0x8#5 0x19#5 0x4#5 0x1#1 0x1#1),
       some (.amoaddW 0x0#5 0x5#5 0x1#5 0x0#1 0x0#1),
       some (.amoxorW 0x1#5 0x14#5 0x7#5 0x0#1 0x0#1),
       some (.amoandW 0xb#5 0x4#5 0x14#5 0x1#1 0x1#1),
       some (.amoorW 0x13#5 0xe#5 0x7#5 0x1#1 0x1#1),
       some (.amominW 0xb#5 0x13#5 0xb#5 0x1#1 0x0#1),
       some (.amomaxW 0xa#5 0xa#5 0x11#5 0x1#1 0x1#1),
       some (.amominuW 0x2#5 0x1d#5 0x2#5 0x1#1 0x1#1),
       some (.amomaxuW 0x2#5 0x1d#5 0x1#5 0x0#1 0x0#1),
       some (.lrD 0x0#5 0xd#5 0x1#1 0x0#1),
       some (.scD 0xe#5 0x10#5 0xf#5 0x1#1 0x1#1),
       some (.amoswapD 0x5#5 0x17#5 0x6#5 0x0#1 0x0#1),
       some (.amoaddD 0x1e#5 0x3#5 0x13#5 0x1#1 0x1#1),
       some (.amoxorD 0x3#5 0xe#5 0x1e#5 0x1#1 0x0#1)] := by decide

theorem test_decode_a_atomics_part2 :
    [0x6466b7af, 0x4403b42f, 0x8490b92f, 0xa4bdb7af, 0xc798b22f, 0xe35c342f].map (decodeTableWord 32) =
      [some (.amoandD 0xf#5 0xd#5 0x6#5 0x1#1 0x0#1),
       some (.amoorD 0x8#5 0x7#5 0x0#5 0x1#1 0x0#1),
       some (.amominD 0x12#5 0x1#5 0x9#5 0x1#1 0x0#1),
       some (.amomaxD 0xf#5 0x1b#5 0xb#5 0x1#1 0x0#1),
       some (.amominuD 0x4#5 0x11#5 0x19#5 0x1#1 0x1#1),
       some (.amomaxuD 0x8#5 0x18#5 0x15#5 0x0#1 0x1#1)] := by decide

theorem test_decode_f_single_part1 :
    [0x2e052187, 0xb2f12ca7, 0xc1a2ea43, 0x387d1bc7, 0x10f4734b, 0x910d6ecf, 0xdd2053, 0x8734753,
     0x10bff253, 0x180902d3, 0x580e05d3, 0x20bc8d53, 0x20e69c53, 0x21b62a53, 0x29e48cd3, 0x28ec9d53].map (decodeTableWord 32) =
      [some (.flw 0x3#5 0xa#5 0x2e0#12),
       some (.fsw 0x2#5 0xf#5 0xb39#12),
       some (.fmaddS 0x14#5 0x5#5 0x1a#5 0x18#5 0x6#3),
       some (.fmsubS 0x17#5 0x1a#5 0x7#5 0x7#5 0x1#3),
       some (.fnmsubS 0x6#5 0x8#5 0xf#5 0x2#5 0x7#3),
       some (.fnmaddS 0x1d#5 0x1a#5 0x10#5 0x12#5 0x6#3),
       some (.faddS 0x0#5 0x1a#5 0xd#5 0x2#3),
       some (.fsubS 0xe#5 0x6#5 0x7#5 0x4#3),
       some (.fmulS 0x4#5 0x1f#5 0xb#5 0x7#3),
       some (.fdivS 0x5#5 0x12#5 0x0#5 0x0#3),
       some (.fsqrtS 0xb#5 0x1c#5 0x0#3),
       some (.fsgnjS 0x1a#5 0x19#5 0xb#5),
       some (.fsgnjnS 0x18#5 0xd#5 0xe#5),
       some (.fsgnjxS 0x14#5 0xc#5 0x1b#5),
       some (.fminS 0x19#5 0x9#5 0x1e#5),
       some (.fmaxS 0x1a#5 0x19#5 0xe#5)] := by decide

theorem test_decode_f_single_part2 :
    [0xc00d4ad3, 0xc0198f53, 0xe00e07d3, 0xa10a28d3, 0xa03a94d3, 0xa1d38cd3, 0xe0009853, 0xd0087553,
     0xd01acbd3, 0xf00c8fd3, 0xc0246c53, 0xc0397cd3, 0xd026e1d3, 0xd03031d3].map (decodeTableWord 32) =
      [some (.fcvtWS 0x15#5 0x1a#5 0x4#3),
       some (.fcvtWUS 0x1e#5 0x13#5 0x0#3),
       some (.fmvXW 0xf#5 0x1c#5),
       some (.feqS 0x11#5 0x14#5 0x10#5),
       some (.fltS 0x9#5 0x15#5 0x3#5),
       some (.fleS 0x19#5 0x7#5 0x1d#5),
       some (.fclassS 0x10#5 0x1#5),
       some (.fcvtSW 0xa#5 0x10#5 0x7#3),
       some (.fcvtSWU 0x17#5 0x15#5 0x4#3),
       some (.fmvWX 0x1f#5 0x19#5),
       some (.fcvtLS 0x18#5 0x8#5 0x6#3),
       some (.fcvtLUS 0x19#5 0x12#5 0x7#3),
       some (.fcvtSL 0x3#5 0xd#5 0x6#3),
       some (.fcvtSLU 0x3#5 0x0#5 0x3#3)] := by decide

theorem test_decode_d_double_part1 :
    [0x13debf87, 0xc3babaa7, 0x8ade0d43, 0x92b1d3c7, 0xca02134b, 0xe21f504f, 0x37f9ad3, 0xa51c1d3,
     0x13124253, 0x1bfee0d3, 0x5a054a53, 0x22288fd3, 0x23261453, 0x22742353, 0x2a010cd3, 0x2ac99f53].map (decodeTableWord 32) =
      [some (.fld 0x1f#5 0x1d#5 0x13d#12),
       some (.fsd 0x15#5 0x1b#5 0xc35#12),
       some (.fmaddD 0x1a#5 0x1c#5 0xd#5 0x11#5 0x0#3),
       some (.fmsubD 0x7#5 0x3#5 0xb#5 0x12#5 0x5#3),
       some (.fnmsubD 0x6#5 0x4#5 0x0#5 0x19#5 0x1#3),
       some (.fnmaddD 0x0#5 0x1e#5 0x1#5 0x1c#5 0x5#3),
       some (.faddD 0x15#5 0x1f#5 0x17#5 0x1#3),
       some (.fsubD 0x3#5 0x3#5 0x5#5 0x4#3),
       some (.fmulD 0x4#5 0x4#5 0x11#5 0x4#3),
       some (.fdivD 0x1#5 0x1d#5 0x1f#5 0x6#3),
       some (.fsqrtD 0x14#5 0xa#5 0x4#3),
       some (.fsgnjD 0x1f#5 0x11#5 0x2#5),
       some (.fsgnjnD 0x8#5 0xc#5 0x12#5),
       some (.fsgnjxD 0x6#5 0x8#5 0x7#5),
       some (.fminD 0x19#5 0x2#5 0x0#5),
       some (.fmaxD 0x1e#5 0x13#5 0xc#5)] := by decide

theorem test_decode_d_double_part2 :
    [0x401a72d3, 0x420820d3, 0xa3f5a853, 0xa3d69ed3, 0xa31a8dd3, 0xe20e9253, 0xc2015953, 0xc215e153,
     0xd203d6d3, 0xd2180853, 0xc22d4253, 0xc234fb53, 0xe2020dd3, 0xd22a3cd3, 0xd23448d3, 0xf20b8953].map (decodeTableWord 32) =
      [some (.fcvtSD 0x5#5 0x14#5 0x7#3),
       some (.fcvtDS 0x1#5 0x10#5 0x2#3),
       some (.feqD 0x10#5 0xb#5 0x1f#5),
       some (.fltD 0x1d#5 0xd#5 0x1d#5),
       some (.fleD 0x1b#5 0x15#5 0x11#5),
       some (.fclassD 0x4#5 0x1d#5),
       some (.fcvtWD 0x12#5 0x2#5 0x5#3),
       some (.fcvtWUD 0x2#5 0xb#5 0x6#3),
       some (.fcvtDW 0xd#5 0x7#5 0x5#3),
       some (.fcvtDWU 0x10#5 0x10#5 0x0#3),
       some (.fcvtLD 0x4#5 0x1a#5 0x4#3),
       some (.fcvtLUD 0x16#5 0x9#5 0x7#3),
       some (.fmvXD 0x1b#5 0x4#5),
       some (.fcvtDL 0x19#5 0x14#5 0x3#3),
       some (.fcvtDLU 0x11#5 0x8#5 0x4#3),
       some (.fmvDX 0x12#5 0x17#5)] := by decide

theorem test_decode_zicsr_zifencei :
    [0xae659f73, 0xd269a9f3, 0x7215b373, 0x48db50f3, 0xb774eb73, 0x62c37a73, 0xe315128f].map (decodeTableWord 32) =
      [some (.csrrw 0x1e#5 0xb#5 0xae6#12),
       some (.csrrs 0x13#5 0x13#5 0xd26#12),
       some (.csrrc 0x6#5 0xb#5 0x721#12),
       some (.csrrwi 0x1#5 0x16#5 0x48d#12),
       some (.csrrsi 0x16#5 0x9#5 0xb77#12),
       some (.csrrci 0x14#5 0x6#5 0x62c#12),
       some (.fenceI 0xe31#12 0xa#5 0x5#5)] := by decide

theorem test_decode_privileged_system :
    [0x73, 0x100073, 0x30200073, 0x10200073, 0x10500073, 0x12ff8073].map (decodeTableWord 32) =
      [some (.ecall),
       some (.ebreak),
       some (.mret),
       some (.sret),
       some (.wfi),
       some (.sfenceVma 0x1f#5 0xf#5)] := by decide

theorem test_decode_c_compressed_part1 :
    [0xb04, 0x3c64, 0x5df8, 0x7e60, 0xaf14, 0xd7dc, 0xe4a8, 0x15,
     0x11d, 0x3d05, 0x5f61, 0x615d, 0x6415, 0x82b5, 0x9715, 0x9b19].map (decodeTableWord 16) =
      [some (.cAddi4spn 0x1#3 0x64#8),
       some (.cFld 0x1#3 0x0#3 0x1f#5),
       some (.cLw 0x6#3 0x3#3 0x1f#5),
       some (.cLd 0x0#3 0x4#3 0x1f#5),
       some (.cFsd 0x6#3 0x5#3 0x3#5),
       some (.cSw 0x7#3 0x7#3 0xb#5),
       some (.cSd 0x1#3 0x2#3 0x9#5),
       some (.cNop 0x5#6),
       some (.cAddi 0x2#5 0x7#6),
       some (.cAddiw 0x1a#5 0x21#6),
       some (.cLi 0x1e#5 0x38#6),
       some (.cAddi16sp 0x1b#6),
       some (.cLui 0x8#5 0x5#6),
       some (.cSrli 0x5#3 0xd#6),
       some (.cSrai 0x6#3 0x25#6),
       some (.cAndi 0x6#3 0x26#6)] := by decide

theorem test_decode_c_compressed_part2 :
    [0x8c81, 0x8eb5, 0x8edd, 0x8ef1, 0x9c89, 0x9f21, 0xa225, 0xc30d,
     0xf1bd, 0xe36, 0x3d2e, 0x4cda, 0x6746, 0x8482, 0x8a52, 0x9002].map (decodeTableWord 16) =
      [some (.cSub 0x1#3 0x0#3),
       some (.cXor 0x5#3 0x5#3),
       some (.cOr 0x5#3 0x7#3),
       some (.cAnd 0x5#3 0x4#3),
       some (.cSubw 0x1#3 0x2#3),
       some (.cAddw 0x6#3 0x0#3),
       some (.cJ 0x94#11),
       some (.cBeqz 0x6#3 0x11#8),
       some (.cBnez 0x3#3 0xb3#8),
       some (.cSlli 0x1c#5 0xd#6),
       some (.cFldsp 0x1a#5 0x1d#6),
       some (.cLwsp 0x19#5 0x25#6),
       some (.cLdsp 0xe#5 0xa#6),
       some (.cJr 0x9#5),
       some (.cMv 0x14#5 0x14#5),
       some (.cEbreak)] := by decide

theorem test_decode_c_compressed_part3 :
    [0x9b82, 0x9ec6, 0xa25a, 0xc166, 0xf52e].map (decodeTableWord 16) =
      [some (.cJalr 0x17#5),
       some (.cAdd 0x1d#5 0x11#5),
       some (.cFsdsp 0x16#5 0x20#6),
       some (.cSwsp 0x19#5 0x20#6),
       some (.cSdsp 0xb#5 0x15#6)] := by decide

/-- spec/96 V-X1 to V-X16: 32-bit words that no row matches. -/
theorem test_illegal_words :
    ([0xFFFFFFFF, 0x0000001F, 0x0000007F, 0x40007033, 0x04031293, 0x0203129B, 0x00037283, 0x00734023, 0x00732463, 0x000310E7,
      0x107332AF, 0x007312AF, 0x00200073, 0x7B200073, 0x120000F3, 0x00000057].map (decodeTableWord 32)).all Option.isNone =
      true := by decide

/-- spec/96 V-X22 to V-X35: 16-bit words that no row matches. -/
theorem test_illegal_halfwords :
    ([0x0000, 0x0004, 0x8000, 0x9FFC, 0x2001, 0x2005, 0x6101, 0x6501, 0x6001, 0x9C41, 0x9C61, 0x4002, 0x6002, 0x8002].map
      (decodeTableWord 16)).all Option.isNone = true := by decide

/-- spec/96 V-X1: the trap value of an illegal word is the word. -/
theorem test_illegal_trap : result base 0xFFFFFFFF (fun t => (t.mcause, t.mtval, t.mepc, t.minstret)) =
    some (2#64, 0xFFFFFFFF#64, 0x80000000#64, 0#64) := by decide

/-! ## One step of each instruction: the vectors of spec/96 and spec/97 (the suffix is the vector's number) -/

theorem test_addi_I1 :
    result (base.setX 6#5 0x0#64) 0xfff30293 (fun t => t.getX 5#5) =
      some 0xffffffffffffffff#64 := by decide

theorem test_addi_I12 :
    result (base.setX 6#5 0x1234#64) 0x130013 (fun t => t.pc) =
      some 0x80000004#64 := by decide

theorem test_slti_I3 :
    result (base.setX 6#5 0x5#64) 0xfff32293 (fun t => t.getX 5#5) =
      some 0x0#64 := by decide

theorem test_sltiu_I4 :
    result (base.setX 6#5 0x5#64) 0xfff33293 (fun t => t.getX 5#5) =
      some 0x1#64 := by decide

theorem test_sltiu_I5 :
    result (base.setX 6#5 0x0#64) 0x133293 (fun t => t.getX 5#5) =
      some 0x1#64 := by decide

theorem test_xori_I6 :
    result (base.setX 6#5 0xff00ff00ff00ff#64) 0xfff34293 (fun t => t.getX 5#5) =
      some 0xff00ff00ff00ff00#64 := by decide

theorem test_andi_I7 :
    result (base.setX 6#5 0xffffffffffffffff#64) 0x7ff37293 (fun t => t.getX 5#5) =
      some 0x7ff#64 := by decide

theorem test_ori_I8 :
    result (base.setX 6#5 0x0#64) 0x80036293 (fun t => t.getX 5#5) =
      some 0xfffffffffffff800#64 := by decide

theorem test_slli_I9 :
    result (base.setX 6#5 0x1#64) 0x3f31293 (fun t => t.getX 5#5) =
      some 0x8000000000000000#64 := by decide

theorem test_srli_I10 :
    result (base.setX 6#5 0x8000000000000000#64) 0x3f35293 (fun t => t.getX 5#5) =
      some 0x1#64 := by decide

theorem test_srai_I11 :
    result (base.setX 6#5 0x8000000000000000#64) 0x43f35293 (fun t => t.getX 5#5) =
      some 0xffffffffffffffff#64 := by decide

theorem test_add_I13 :
    result ((base.setX 6#5 0xffffffffffffffff#64).setX 7#5 0x1#64) 0x7302b3 (fun t => t.getX 5#5) =
      some 0x0#64 := by decide

theorem test_sub_I14 :
    result ((base.setX 6#5 0x0#64).setX 7#5 0x8000000000000000#64) 0x407302b3 (fun t => t.getX 5#5) =
      some 0x8000000000000000#64 := by decide

theorem test_sll_I15 :
    result ((base.setX 6#5 0x1#64).setX 7#5 0x41#64) 0x7312b3 (fun t => t.getX 5#5) =
      some 0x2#64 := by decide

theorem test_srl_I16 :
    result ((base.setX 6#5 0x8000000000000000#64).setX 7#5 0xffffffffffffffff#64) 0x7352b3 (fun t => t.getX 5#5) =
      some 0x1#64 := by decide

theorem test_sra_I17 :
    result ((base.setX 6#5 0xf000000000000000#64).setX 7#5 0x4#64) 0x407352b3 (fun t => t.getX 5#5) =
      some 0xff00000000000000#64 := by decide

theorem test_slt_I18 :
    result ((base.setX 6#5 0xffffffffffffffff#64).setX 7#5 0x1#64) 0x7322b3 (fun t => t.getX 5#5) =
      some 0x1#64 := by decide

theorem test_sltu_I19 :
    result ((base.setX 6#5 0xffffffffffffffff#64).setX 7#5 0x1#64) 0x7332b3 (fun t => t.getX 5#5) =
      some 0x0#64 := by decide

theorem test_sltu_I20 :
    result ((base.setX 0#5 0x0#64).setX 7#5 0x5#64) 0x7032b3 (fun t => t.getX 5#5) =
      some 0x1#64 := by decide

theorem test_xor_I21 :
    result ((base.setX 6#5 0xaaaaaaaaaaaaaaaa#64).setX 7#5 0xffffffff00000000#64) 0x7342b3 (fun t => t.getX 5#5) =
      some 0x55555555aaaaaaaa#64 := by decide

theorem test_or_I22 :
    result ((base.setX 6#5 0xaaaaaaaaaaaaaaaa#64).setX 7#5 0x5555555555555555#64) 0x7362b3 (fun t => t.getX 5#5) =
      some 0xffffffffffffffff#64 := by decide

theorem test_and_I23 :
    result ((base.setX 6#5 0xaaaaaaaaaaaaaaaa#64).setX 7#5 0xffffffff00000000#64) 0x7372b3 (fun t => t.getX 5#5) =
      some 0xaaaaaaaa00000000#64 := by decide

theorem test_addiw_I24 :
    result (base.setX 6#5 0x7fffffff#64) 0x13029b (fun t => t.getX 5#5) =
      some 0xffffffff80000000#64 := by decide

theorem test_addiw_I25 :
    result (base.setX 6#5 0xffffffff00000005#64) 0x3029b (fun t => t.getX 5#5) =
      some 0x5#64 := by decide

theorem test_slliw_I26 :
    result (base.setX 6#5 0x40000000#64) 0x13129b (fun t => t.getX 5#5) =
      some 0xffffffff80000000#64 := by decide

theorem test_srliw_I27 :
    result (base.setX 6#5 0xffffffff80000000#64) 0x1f3529b (fun t => t.getX 5#5) =
      some 0x1#64 := by decide

theorem test_sraiw_I28 :
    result (base.setX 6#5 0x80000000#64) 0x41f3529b (fun t => t.getX 5#5) =
      some 0xffffffffffffffff#64 := by decide

theorem test_addw_I29 :
    result ((base.setX 6#5 0xffffffff#64).setX 7#5 0x1#64) 0x7302bb (fun t => t.getX 5#5) =
      some 0x0#64 := by decide

theorem test_subw_I30 :
    result ((base.setX 6#5 0x80000000#64).setX 7#5 0x1#64) 0x407302bb (fun t => t.getX 5#5) =
      some 0x7fffffff#64 := by decide

theorem test_sllw_I31 :
    result ((base.setX 6#5 0x1#64).setX 7#5 0x3f#64) 0x7312bb (fun t => t.getX 5#5) =
      some 0xffffffff80000000#64 := by decide

theorem test_srlw_I32 :
    result ((base.setX 6#5 0x123456789abcdef#64).setX 7#5 0x4#64) 0x7352bb (fun t => t.getX 5#5) =
      some 0x89abcde#64 := by decide

theorem test_sraw_I33 :
    result ((base.setX 6#5 0x123456789abcdef#64).setX 7#5 0x4#64) 0x407352bb (fun t => t.getX 5#5) =
      some 0xfffffffff89abcde#64 := by decide

theorem test_lui_I34 :
    result (base.setX 5#5 0xffffffff80000000#64) 0x800002b7 (fun t => t.pc) =
      some 0x80000004#64 := by decide

theorem test_auipc_I35 :
    result base 0xfffff297 (fun t => t.getX 5#5) =
      some 0x7ffff000#64 := by decide

theorem test_auipc_I36 :
    result ({ base with pc := 0x1000#64 }) 0x297 (fun t => t.getX 5#5) =
      some 0x1000#64 := by decide

theorem test_jal_C1 :
    result base 0xff9ff0ef (fun t => (t.getX 1#5, t.pc)) =
      some (0x80000004#64, 0x7ffffff8#64) := by decide

theorem test_jal_C3 :
    result base 0x8000006f (fun t => t.pc) =
      some 0x7ff00000#64 := by decide

theorem test_jalr_C4 :
    result (base.setX 6#5 0x80000101#64) 0x2300e7 (fun t => (t.getX 1#5, t.pc)) =
      some (0x80000004#64, 0x80000102#64) := by decide

theorem test_jalr_C5 :
    result (base.setX 1#5 0x80000200#64) 0x80e7 (fun t => (t.getX 1#5, t.pc)) =
      some (0x80000004#64, 0x80000200#64) := by decide

theorem test_beq_C6 :
    result ((base.setX 6#5 0x5#64).setX 7#5 0x5#64) 0x730863 (fun t => t.pc) =
      some 0x80000010#64 := by decide

theorem test_beq_C13 :
    result base 0x80000063 (fun t => t.pc) =
      some 0x7ffff000#64 := by decide

theorem test_bne_C7 :
    result ((base.setX 6#5 0x5#64).setX 7#5 0x5#64) 0x731863 (fun t => t.pc) =
      some 0x80000004#64 := by decide

theorem test_bne_C14 :
    result (base.setX 6#5 0x1#64) 0x7e031fe3 (fun t => t.pc) =
      some 0x80000ffe#64 := by decide

theorem test_blt_C8 :
    result ((base.setX 6#5 0xffffffffffffffff#64).setX 7#5 0x1#64) 0x734863 (fun t => t.pc) =
      some 0x80000010#64 := by decide

theorem test_bltu_C9 :
    result ((base.setX 6#5 0xffffffffffffffff#64).setX 7#5 0x1#64) 0x736863 (fun t => t.pc) =
      some 0x80000004#64 := by decide

theorem test_bge_C10 :
    result ((base.setX 6#5 0x8000000000000000#64).setX 7#5 0x0#64) 0x735863 (fun t => t.pc) =
      some 0x80000004#64 := by decide

theorem test_bge_C12 :
    result ((base.setX 6#5 0x7#64).setX 7#5 0x7#64) 0x735863 (fun t => t.pc) =
      some 0x80000010#64 := by decide

theorem test_bgeu_C11 :
    result ((base.setX 6#5 0x8000000000000000#64).setX 7#5 0x0#64) 0x737863 (fun t => t.pc) =
      some 0x80000010#64 := by decide

theorem test_lb_L1 :
    result ((base.setX 6#5 0x80001000#64).withData 0x8899AABBCCDDEEFF) 0x30283 (fun t => t.getX 5#5) =
      some 0xffffffffffffffff#64 := by decide

theorem test_lb_L3 :
    result ((base.setX 6#5 0x80001000#64).withData 0x8899AABBCCDDEEFF) 0x630283 (fun t => t.getX 5#5) =
      some 0xffffffffffffff99#64 := by decide

theorem test_lbu_L2 :
    result ((base.setX 6#5 0x80001000#64).withData 0x8899AABBCCDDEEFF) 0x34283 (fun t => t.getX 5#5) =
      some 0xff#64 := by decide

theorem test_lh_L4 :
    result ((base.setX 6#5 0x80001000#64).withData 0x8899AABBCCDDEEFF) 0x31283 (fun t => t.getX 5#5) =
      some 0xffffffffffffeeff#64 := by decide

theorem test_lh_L6 :
    result ((base.setX 6#5 0x80001000#64).withData 0x8899AABBCCDDEEFF) 0x631283 (fun t => t.getX 5#5) =
      some 0xffffffffffff8899#64 := by decide

theorem test_lhu_L5 :
    result ((base.setX 6#5 0x80001000#64).withData 0x8899AABBCCDDEEFF) 0x235283 (fun t => t.getX 5#5) =
      some 0xccdd#64 := by decide

theorem test_lw_L7 :
    result ((base.setX 6#5 0x80001000#64).withData 0x8899AABBCCDDEEFF) 0x32283 (fun t => t.getX 5#5) =
      some 0xffffffffccddeeff#64 := by decide

theorem test_lw_L8 :
    result ((base.setX 6#5 0x80001000#64).withData 0x8899AABBCCDDEEFF) 0x432283 (fun t => t.getX 5#5) =
      some 0xffffffff8899aabb#64 := by decide

theorem test_lwu_L9 :
    result ((base.setX 6#5 0x80001000#64).withData 0x8899AABBCCDDEEFF) 0x436283 (fun t => t.getX 5#5) =
      some 0x8899aabb#64 := by decide

theorem test_ld_L10 :
    result ((base.setX 6#5 0x80001000#64).withData 0x8899AABBCCDDEEFF) 0x33283 (fun t => t.getX 5#5) =
      some 0x8899aabbccddeeff#64 := by decide

theorem test_sb_L11 :
    result (((base.setX 6#5 0x80001000#64).setX 7#5 0x1122334455667788#64).withData 0x8899AABBCCDDEEFF) 0x7300a3 (fun t => t.loadMem 0x80001000 8) =
      some 0x8899aabbccdd88ff#64 := by decide

theorem test_sh_L12 :
    result (((base.setX 6#5 0x80001000#64).setX 7#5 0x1122334455667788#64).withData 0x8899AABBCCDDEEFF) 0x731123 (fun t => t.loadMem 0x80001000 8) =
      some 0x8899aabb7788eeff#64 := by decide

theorem test_sh_L17 :
    result ((base.setX 6#5 0x80001000#64).withData 0x8899AABBCCDDEEFF) 0x7310a3 (fun t => (t.mcause, t.mtval, t.mepc)) =
      some (0x6#64, 0x80001001#64, 0x80000000#64) := by decide

theorem test_sw_L13 :
    result (((base.setX 6#5 0x80001000#64).setX 7#5 0x1122334455667788#64).withData 0x8899AABBCCDDEEFF) 0x732223 (fun t => t.loadMem 0x80001000 8) =
      some 0x55667788ccddeeff#64 := by decide

theorem test_sd_L14 :
    result (((base.setX 6#5 0x80001000#64).setX 7#5 0x1122334455667788#64).withData 0x8899AABBCCDDEEFF) 0x733023 (fun t => t.loadMem 0x80001000 8) =
      some 0x1122334455667788#64 := by decide

theorem test_sd_L20 :
    result ((base.setX 6#5 0x1000#64).withData 0x8899AABBCCDDEEFF) 0x733023 (fun t => (t.mcause, t.mtval, t.mepc)) =
      some (0x7#64, 0x1000#64, 0x80000000#64) := by decide

theorem test_mul_M1 :
    result ((base.setX 6#5 0xffffffffffffffff#64).setX 7#5 0xffffffffffffffff#64) 0x27302b3 (fun t => t.getX 5#5) =
      some 0x1#64 := by decide

theorem test_mul_M2 :
    result ((base.setX 6#5 0x100000000#64).setX 7#5 0x100000000#64) 0x27302b3 (fun t => t.getX 5#5) =
      some 0x0#64 := by decide

theorem test_mulh_M3 :
    result ((base.setX 6#5 0xffffffffffffffff#64).setX 7#5 0xffffffffffffffff#64) 0x27312b3 (fun t => t.getX 5#5) =
      some 0x0#64 := by decide

theorem test_mulh_M4 :
    result ((base.setX 6#5 0x8000000000000000#64).setX 7#5 0x8000000000000000#64) 0x27312b3 (fun t => t.getX 5#5) =
      some 0x4000000000000000#64 := by decide

theorem test_mulhu_M5 :
    result ((base.setX 6#5 0xffffffffffffffff#64).setX 7#5 0xffffffffffffffff#64) 0x27332b3 (fun t => t.getX 5#5) =
      some 0xfffffffffffffffe#64 := by decide

theorem test_mulhsu_M6 :
    result ((base.setX 6#5 0xffffffffffffffff#64).setX 7#5 0xffffffffffffffff#64) 0x27322b3 (fun t => t.getX 5#5) =
      some 0xffffffffffffffff#64 := by decide

theorem test_mulhsu_M7 :
    result ((base.setX 6#5 0x2#64).setX 7#5 0xffffffffffffffff#64) 0x27322b3 (fun t => t.getX 5#5) =
      some 0x1#64 := by decide

theorem test_div_M8 :
    result ((base.setX 6#5 0xfffffffffffffff9#64).setX 7#5 0x2#64) 0x27342b3 (fun t => t.getX 5#5) =
      some 0xfffffffffffffffd#64 := by decide

theorem test_div_M16 :
    result ((base.setX 6#5 0x8000000000000000#64).setX 7#5 0xffffffffffffffff#64) 0x27342b3 (fun t => t.getX 5#5) =
      some 0x8000000000000000#64 := by decide

theorem test_rem_M9 :
    result ((base.setX 6#5 0xfffffffffffffff9#64).setX 7#5 0x2#64) 0x27362b3 (fun t => t.getX 5#5) =
      some 0xffffffffffffffff#64 := by decide

theorem test_rem_M17 :
    result ((base.setX 6#5 0x8000000000000000#64).setX 7#5 0xffffffffffffffff#64) 0x27362b3 (fun t => t.getX 5#5) =
      some 0x0#64 := by decide

theorem test_divu_M13 :
    result ((base.setX 6#5 0x5#64).setX 7#5 0x0#64) 0x27352b3 (fun t => t.getX 5#5) =
      some 0xffffffffffffffff#64 := by decide

theorem test_divu_M18 :
    result ((base.setX 6#5 0x8000000000000000#64).setX 7#5 0xffffffffffffffff#64) 0x27352b3 (fun t => t.getX 5#5) =
      some 0x0#64 := by decide

theorem test_remu_M15 :
    result ((base.setX 6#5 0x5#64).setX 7#5 0x0#64) 0x27372b3 (fun t => t.getX 5#5) =
      some 0x5#64 := by decide

theorem test_remu_M19 :
    result ((base.setX 6#5 0x8000000000000000#64).setX 7#5 0xffffffffffffffff#64) 0x27372b3 (fun t => t.getX 5#5) =
      some 0x8000000000000000#64 := by decide

theorem test_mulw_M20 :
    result ((base.setX 6#5 0xffffffff#64).setX 7#5 0xffffffff#64) 0x27302bb (fun t => t.getX 5#5) =
      some 0x1#64 := by decide

theorem test_mulw_M21 :
    result ((base.setX 6#5 0x1234567800010000#64).setX 7#5 0x10000#64) 0x27302bb (fun t => t.getX 5#5) =
      some 0x0#64 := by decide

theorem test_divw_M22 :
    result ((base.setX 6#5 0x80000000#64).setX 7#5 0xffffffff#64) 0x27342bb (fun t => t.getX 5#5) =
      some 0xffffffff80000000#64 := by decide

theorem test_divw_M24 :
    result ((base.setX 6#5 0xffffffff00000007#64).setX 7#5 0x0#64) 0x27342bb (fun t => t.getX 5#5) =
      some 0xffffffffffffffff#64 := by decide

theorem test_remw_M23 :
    result ((base.setX 6#5 0x80000000#64).setX 7#5 0xffffffff#64) 0x27362bb (fun t => t.getX 5#5) =
      some 0x0#64 := by decide

theorem test_remw_M27 :
    result ((base.setX 6#5 0xfffffffffffffff9#64).setX 7#5 0x0#64) 0x27362bb (fun t => t.getX 5#5) =
      some 0xfffffffffffffff9#64 := by decide

theorem test_divuw_M25 :
    result ((base.setX 6#5 0xffffffff#64).setX 7#5 0x1#64) 0x27352bb (fun t => t.getX 5#5) =
      some 0xffffffffffffffff#64 := by decide

theorem test_divuw_M26 :
    result ((base.setX 6#5 0x7#64).setX 7#5 0x0#64) 0x27352bb (fun t => t.getX 5#5) =
      some 0xffffffffffffffff#64 := by decide

theorem test_remuw_M28 :
    result ((base.setX 6#5 0xfffffff9#64).setX 7#5 0x0#64) 0x27372bb (fun t => t.getX 5#5) =
      some 0xfffffffffffffff9#64 := by decide

theorem test_remuw_M29 :
    result ((base.setX 6#5 0xffffffff#64).setX 7#5 0x80000000#64) 0x27372bb (fun t => t.getX 5#5) =
      some 0x7fffffff#64 := by decide

theorem test_lr_w_A1 :
    result (((base.setX 6#5 0x80001000#64).setX 7#5 0x0#64).withData 0xFFFFFFFF80000005) 0x100322af (fun t => (t.getX 5#5, t.loadMem 0x80001000 8, t.ilrsc)) =
      some (0xffffffff80000005#64, 0xffffffff80000005#64, some ⟨0x80001000#64, 4⟩) := by decide

theorem test_lr_w_A8 :
    result (((base.setX 6#5 0x80001002#64).setX 7#5 0x0#64).withData 0xFFFFFFFF80000005) 0x100322af (fun t => (t.mcause, t.mtval, t.mepc, t.ilrsc)) =
      some (0x4#64, 0x80001002#64, 0x80000000#64, none) := by decide

theorem test_lr_d_A2 :
    result (((base.setX 6#5 0x80001000#64).setX 7#5 0x0#64).withData 0xFFFFFFFF80000005) 0x160332af (fun t => (t.getX 5#5, t.loadMem 0x80001000 8, t.ilrsc)) =
      some (0xffffffff80000005#64, 0xffffffff80000005#64, some ⟨0x80001000#64, 8⟩) := by decide

theorem test_sc_w_A3 :
    result (((({ base with ilrsc := some ⟨0x80001000#64, 4⟩ }).setX 6#5 0x80001000#64).setX 7#5 0x11#64).withData 0xFFFFFFFF80000005) 0x187322af (fun t => (t.getX 5#5, t.loadMem 0x80001000 8, t.ilrsc)) =
      some (0x0#64, 0xffffffff00000011#64, none) := by decide

theorem test_sc_w_A6 :
    result (((({ base with ilrsc := some ⟨0x80001004#64, 4⟩ }).setX 6#5 0x80001000#64).setX 7#5 0x11#64).withData 0xFFFFFFFF80000005) 0x187322af (fun t => (t.getX 5#5, t.loadMem 0x80001000 8, t.ilrsc)) =
      some (0x1#64, 0xffffffff80000005#64, none) := by decide

theorem test_sc_d_A5 :
    result (((({ base with ilrsc := some ⟨0x80001000#64, 4⟩ }).setX 6#5 0x80001000#64).setX 7#5 0x11#64).withData 0xFFFFFFFF80000005) 0x187332af (fun t => (t.getX 5#5, t.loadMem 0x80001000 8, t.ilrsc)) =
      some (0x1#64, 0xffffffff80000005#64, none) := by decide

theorem test_sc_d_A7 :
    result (((({ base with ilrsc := some ⟨0x80001000#64, 8⟩ }).setX 6#5 0x80001004#64).setX 7#5 0x11#64).withData 0xFFFFFFFF80000005) 0x187332af (fun t => (t.mcause, t.mtval, t.mepc, t.ilrsc)) =
      some (0x6#64, 0x80001004#64, 0x80000000#64, none) := by decide

theorem test_amoswap_w_A9 :
    result (((base.setX 6#5 0x80001000#64).setX 7#5 0x12345678#64).withData 0xFFFFFFFF80000005) 0x87322af (fun t => (t.getX 5#5, t.loadMem 0x80001000 8, t.ilrsc)) =
      some (0xffffffff80000005#64, 0xffffffff12345678#64, none) := by decide

theorem test_amoadd_w_A10 :
    result (((base.setX 6#5 0x80001000#64).setX 7#5 0x7ffffffb#64).withData 0xFFFFFFFF80000005) 0x7322af (fun t => (t.getX 5#5, t.loadMem 0x80001000 8, t.ilrsc)) =
      some (0xffffffff80000005#64, 0xffffffff00000000#64, none) := by decide

theorem test_amoadd_w_A22 :
    result (((base.setX 6#5 0x2000000#64).setX 7#5 0x1#64).withData 0xFFFFFFFF80000005) 0x7322af (fun t => (t.mcause, t.mtval, t.mepc, t.ilrsc)) =
      some (0x7#64, 0x2000000#64, 0x80000000#64, none) := by decide

theorem test_amoadd_d_A11 :
    result (((base.setX 6#5 0x80001000#64).setX 7#5 0x7ffffffb#64).withData 0xFFFFFFFF80000005) 0x7332af (fun t => (t.getX 5#5, t.loadMem 0x80001000 8, t.ilrsc)) =
      some (0xffffffff80000005#64, 0x0#64, none) := by decide

theorem test_amoadd_d_A21 :
    result (((({ base with ilrsc := some ⟨0x80001000#64, 8⟩ }).setX 6#5 0x80001000#64).setX 7#5 0x1#64).withData 0xFFFFFFFF80000005) 0x7332af (fun t => (t.getX 5#5, t.loadMem 0x80001000 8, t.ilrsc)) =
      some (0xffffffff80000005#64, 0xffffffff80000006#64, none) := by decide

theorem test_amoxor_w_A12 :
    result (((base.setX 6#5 0x80001000#64).setX 7#5 0xffffffffffffffff#64).withData 0xFFFFFFFF80000005) 0x207322af (fun t => (t.getX 5#5, t.loadMem 0x80001000 8, t.ilrsc)) =
      some (0xffffffff80000005#64, 0xffffffff7ffffffa#64, none) := by decide

theorem test_amoand_d_A13 :
    result (((base.setX 6#5 0x80001000#64).setX 7#5 0xffffffff#64).withData 0xFFFFFFFF80000005) 0x607332af (fun t => (t.getX 5#5, t.loadMem 0x80001000 8, t.ilrsc)) =
      some (0xffffffff80000005#64, 0x80000005#64, none) := by decide

theorem test_amoor_w_A14 :
    result (((base.setX 6#5 0x80001000#64).setX 7#5 0xf0#64).withData 0xFFFFFFFF80000005) 0x407322af (fun t => (t.getX 5#5, t.loadMem 0x80001000 8, t.ilrsc)) =
      some (0xffffffff80000005#64, 0xffffffff800000f5#64, none) := by decide

theorem test_amomin_w_A15 :
    result (((base.setX 6#5 0x80001000#64).setX 7#5 0x1#64).withData 0xFFFFFFFF80000005) 0x807322af (fun t => (t.getX 5#5, t.loadMem 0x80001000 8, t.ilrsc)) =
      some (0xffffffff80000005#64, 0xffffffff80000005#64, none) := by decide

theorem test_amominu_w_A16 :
    result (((base.setX 6#5 0x80001000#64).setX 7#5 0x1#64).withData 0xFFFFFFFF80000005) 0xc07322af (fun t => (t.getX 5#5, t.loadMem 0x80001000 8, t.ilrsc)) =
      some (0xffffffff80000005#64, 0xffffffff00000001#64, none) := by decide

theorem test_amomax_w_A17 :
    result (((base.setX 6#5 0x80001000#64).setX 7#5 0x1#64).withData 0xFFFFFFFF80000005) 0xa07322af (fun t => (t.getX 5#5, t.loadMem 0x80001000 8, t.ilrsc)) =
      some (0xffffffff80000005#64, 0xffffffff00000001#64, none) := by decide

theorem test_amomaxu_w_A18 :
    result (((base.setX 6#5 0x80001000#64).setX 7#5 0x1#64).withData 0xFFFFFFFF80000005) 0xe07322af (fun t => (t.getX 5#5, t.loadMem 0x80001000 8, t.ilrsc)) =
      some (0xffffffff80000005#64, 0xffffffff80000005#64, none) := by decide

theorem test_amomin_d_A19 :
    result (((base.setX 6#5 0x80001000#64).setX 7#5 0x8000000000000000#64).withData 0xFFFFFFFF80000005) 0x807332af (fun t => (t.getX 5#5, t.loadMem 0x80001000 8, t.ilrsc)) =
      some (0xffffffff80000005#64, 0x8000000000000000#64, none) := by decide

theorem test_amomaxu_d_A20 :
    result (((base.setX 6#5 0x80001000#64).setX 7#5 0x8000000000000000#64).withData 0xFFFFFFFF80000005) 0xe07332af (fun t => (t.getX 5#5, t.loadMem 0x80001000 8, t.ilrsc)) =
      some (0xffffffff80000005#64, 0xffffffff80000005#64, none) := by decide

theorem test_amoand_w_A23 :
    result (((base.setX 6#5 0x80001000#64).setX 7#5 0xffff0004#64).withData 0xFFFFFFFF80000005) 0x607322af (fun t => (t.getX 5#5, t.loadMem 0x80001000 8, t.ilrsc)) =
      some (0xffffffff80000005#64, 0xffffffff80000004#64, none) := by decide

theorem test_amoswap_d_A24 :
    result (((base.setX 6#5 0x80001000#64).setX 7#5 0x1122334455667788#64).withData 0xFFFFFFFF80000005) 0x87332af (fun t => (t.getX 5#5, t.loadMem 0x80001000 8, t.ilrsc)) =
      some (0xffffffff80000005#64, 0x1122334455667788#64, none) := by decide

theorem test_amoxor_d_A25 :
    result (((base.setX 6#5 0x80001000#64).setX 7#5 0xffffffffffffffff#64).withData 0xFFFFFFFF80000005) 0x207332af (fun t => (t.getX 5#5, t.loadMem 0x80001000 8, t.ilrsc)) =
      some (0xffffffff80000005#64, 0x7ffffffa#64, none) := by decide

theorem test_amoor_d_A26 :
    result (((base.setX 6#5 0x80001000#64).setX 7#5 0xf00000000#64).withData 0xFFFFFFFF80000005) 0x407332af (fun t => (t.getX 5#5, t.loadMem 0x80001000 8, t.ilrsc)) =
      some (0xffffffff80000005#64, 0xffffffff80000005#64, none) := by decide

theorem test_amomax_d_A27 :
    result (((base.setX 6#5 0x80001000#64).setX 7#5 0x1#64).withData 0xFFFFFFFF80000005) 0xa07332af (fun t => (t.getX 5#5, t.loadMem 0x80001000 8, t.ilrsc)) =
      some (0xffffffff80000005#64, 0x1#64, none) := by decide

theorem test_amominu_d_A28 :
    result (((base.setX 6#5 0x80001000#64).setX 7#5 0x1#64).withData 0xFFFFFFFF80000005) 0xc07332af (fun t => (t.getX 5#5, t.loadMem 0x80001000 8, t.ilrsc)) =
      some (0xffffffff80000005#64, 0x1#64, none) := by decide

theorem test_csrrw_Z1 :
    result (({ base with mscratch := 0x11#64, mstatus := 0#64 }).setX 6#5 0x22#64) 0x340312f3 (fun t => (t.getX 5#5, t.mscratch)) =
      some (0x11#64, 0x22#64) := by decide

theorem test_csrrw_Z20 :
    result ({ base with mcycle := 0x7#64, mstatus := 0#64 }) 0xb0001073 (fun t => t.mcycle) =
      some 0x8#64 := by decide

theorem test_csrrs_Z3 :
    result ({ base with mstatus := 0#64 }) 0xf14022f3 (fun t => t.getX 5#5) =
      some 0x0#64 := by decide

theorem test_csrrs_Z24 :
    result ({ base with mstatus := 0x7e79aa#64, priv := .supervisor }) 0x100022f3 (fun t => t.getX 5#5) =
      some 0x80000002000c6122#64 := by decide

theorem test_csrrc_Z6 :
    result (({ base with mscratch := 0xff#64, mstatus := 0#64 }).setX 6#5 0xf#64) 0x340332f3 (fun t => (t.getX 5#5, t.mscratch)) =
      some (0xff#64, 0xf0#64) := by decide

theorem test_csrrc_Z7 :
    result ({ base with mstatus := 0#64 }) 0xf14032f3 (fun t => t.getX 5#5) =
      some 0x0#64 := by decide

theorem test_csrrwi_Z8 :
    result ({ base with mstatus := 0#64 }) 0x340fd073 (fun t => t.mscratch) =
      some 0x1f#64 := by decide

theorem test_csrrci_Z9 :
    result ({ base with mstatus := 0x1888#64 }) 0x300472f3 (fun t => t.getX 5#5) =
      some 0xa00001888#64 := by decide

theorem test_ecall_P4 :
    result ({ base with sepc := 0x80000400#64, mepc := 0x80000400#64, medeleg := 0x100#64, stvec := 0x80000201#64, mstatus := 0x2#64, priv := .user }) 0x73 (fun t => (t.scause, t.sepc, t.stval, t.pc, t.priv.bits, t.mstatus)) =
      some (0x8#64, 0x80000000#64, 0x0#64, 0x80000200#64, 1#2, 0x20#64) := by decide

theorem test_ecall_P1 :
    result ({ base with sepc := 0x80000400#64, mepc := 0x80000400#64, mstatus := 0x8#64, priv := .machine }) 0x73 (fun t => (t.mcause, t.mtval, t.mepc, t.pc, t.priv.bits, t.mstatus)) =
      some (0xb#64, 0x0#64, 0x80000000#64, 0x80000100#64, 3#2, 0x1880#64) := by decide

theorem test_ebreak_P6 :
    result ({ base with sepc := 0x80000400#64, mepc := 0x80000400#64, priv := .machine, mstatus := 0#64 }) 0x100073 (fun t => (t.mcause, t.mtval, t.mepc, t.pc, t.priv.bits, t.mstatus)) =
      some (0x3#64, 0x80000000#64, 0x80000000#64, 0x80000100#64, 3#2, 0x1800#64) := by decide

theorem test_mret_P7 :
    result ({ base with sepc := 0x80000400#64, mepc := 0x80000400#64, mstatus := 0x20080#64, priv := .machine }) 0x30200073 (fun t => (t.pc, t.priv.bits, t.mstatus)) =
      some (0x80000400#64, 0#2, 0x88#64) := by decide

theorem test_mret_P9 :
    result ({ base with sepc := 0x80000400#64, mepc := 0x80000400#64, mstatus := 0x888#64, priv := .machine }) 0x30200073 (fun t => (t.pc, t.priv.bits, t.mstatus)) =
      some (0x80000400#64, 1#2, 0x88#64) := by decide

theorem test_sret_P11 :
    result ({ base with sepc := 0x80000400#64, mepc := 0x80000400#64, mstatus := 0x20120#64, priv := .supervisor }) 0x10200073 (fun t => (t.pc, t.priv.bits, t.mstatus)) =
      some (0x80000400#64, 1#2, 0x22#64) := by decide

theorem test_sret_P13 :
    result ({ base with sepc := 0x80000400#64, mepc := 0x80000400#64, mstatus := 0x400020#64, priv := .machine }) 0x10200073 (fun t => (t.pc, t.priv.bits, t.mstatus)) =
      some (0x80000400#64, 0#2, 0x400022#64) := by decide

theorem test_wfi_P15 :
    result ({ base with sepc := 0x80000400#64, mepc := 0x80000400#64, mie := 0x0#64, priv := .machine, mstatus := 0#64 }) 0x10500073 (fun t => (t.pc, t.minstret)) =
      some (0x80000004#64, 0x1#64) := by decide

theorem test_wfi_P17 :
    result ({ base with sepc := 0x80000400#64, mepc := 0x80000400#64, priv := .user, mstatus := 0#64 }) 0x10500073 (fun t => t.pc) =
      some 0x80000004#64 := by decide

theorem test_sfence_vma_P19 :
    result ({ base with sepc := 0x80000400#64, mepc := 0x80000400#64, priv := .supervisor, mstatus := 0#64 }) 0x12000073 (fun t => t.pc) =
      some 0x80000004#64 := by decide

theorem test_sfence_vma_P20 :
    result ({ base with sepc := 0x80000400#64, mepc := 0x80000400#64, priv := .supervisor, mstatus := 0x100000#64 }) 0x12730073 (fun t => (t.mcause, t.mtval, t.mepc)) =
      some (0x2#64, 0x12730073#64, 0x80000000#64) := by decide

theorem test_c_add_K40 :
    result ((base.setX 10#5 0xffffffffffffffff#64).setX 11#5 0x2#64) 0x952e (fun t => t.getX 10#5) =
      some 0x1#64 := by decide

theorem test_c_mv_K41 :
    result (base.setX 11#5 0x77#64) 0x852e (fun t => t.getX 10#5) =
      some 0x77#64 := by decide

theorem test_c_srli_K42 :
    result (base.setX 10#5 0x8000000000000000#64) 0x9105 (fun t => t.getX 10#5) =
      some 0x40000000#64 := by decide

theorem test_c_srli_K43 :
    result (base.setX 10#5 0xffffffffffffffff#64) 0x8105 (fun t => t.getX 10#5) =
      some 0x7fffffffffffffff#64 := by decide

theorem test_c_srai_K44 :
    result (base.setX 10#5 0x8000000000000000#64) 0x9505 (fun t => t.getX 10#5) =
      some 0xffffffffc0000000#64 := by decide

theorem test_c_srai_K45 :
    result (base.setX 10#5 0x7fffffffffffffff#64) 0x957d (fun t => t.getX 10#5) =
      some 0x0#64 := by decide

theorem test_c_andi_K46 :
    result (base.setX 10#5 0x123456789abcdeff#64) 0x9901 (fun t => t.getX 10#5) =
      some 0x123456789abcdee0#64 := by decide

theorem test_c_andi_K47 :
    result (base.setX 10#5 0x123456789abcdeff#64) 0x897d (fun t => t.getX 10#5) =
      some 0x1f#64 := by decide

theorem test_c_sub_K48 :
    result ((base.setX 10#5 0x0#64).setX 11#5 0x1#64) 0x8d0d (fun t => t.getX 10#5) =
      some 0xffffffffffffffff#64 := by decide

theorem test_c_xor_K49 :
    result ((base.setX 10#5 0xff00ff00ff00ff00#64).setX 11#5 0xff00ff00ff00ff0#64) 0x8d2d (fun t => t.getX 10#5) =
      some 0xf0f0f0f0f0f0f0f0#64 := by decide

theorem test_c_or_K50 :
    result ((base.setX 10#5 0xff00ff00ff00ff00#64).setX 11#5 0xff00ff00ff00ff0#64) 0x8d4d (fun t => t.getX 10#5) =
      some 0xfff0fff0fff0fff0#64 := by decide

theorem test_c_and_K51 :
    result ((base.setX 10#5 0xff00ff00ff00ff00#64).setX 11#5 0xff00ff00ff00ff0#64) 0x8d6d (fun t => t.getX 10#5) =
      some 0xf000f000f000f00#64 := by decide

theorem test_c_subw_K52 :
    result ((base.setX 10#5 0x180000000#64).setX 11#5 0x1#64) 0x9d0d (fun t => t.getX 10#5) =
      some 0x7fffffff#64 := by decide

theorem test_c_subw_K53 :
    result ((base.setX 10#5 0x0#64).setX 11#5 0x1#64) 0x9d0d (fun t => t.getX 10#5) =
      some 0xffffffffffffffff#64 := by decide

theorem test_c_addw_K54 :
    result ((base.setX 10#5 0x7fffffff#64).setX 11#5 0x1#64) 0x9d2d (fun t => t.getX 10#5) =
      some 0xffffffff80000000#64 := by decide

theorem test_c_addw_K55 :
    result ((base.setX 10#5 0xffffffff00000001#64).setX 11#5 0xffffffffffffffff#64) 0x9d2d (fun t => t.getX 10#5) =
      some 0x0#64 := by decide

theorem test_c_sw_K56 :
    result ((base.setX 10#5 0x80001000#64).setX 9#5 0x1122334455667788#64) 0xdd64 (fun t => t.pc) =
      some 0x80000002#64 := by decide

theorem test_c_bnez_K58 :
    result (base.setX 11#5 0x1#64) 0xfdf5 (fun t => t.pc) =
      some 0x7ffffffc#64 := by decide

theorem test_c_bnez_K59 :
    result (base.setX 11#5 0x0#64) 0xfdf5 (fun t => t.pc) =
      some 0x80000002#64 := by decide

theorem test_c_jr_K60 :
    result (base.setX 1#5 0x80000101#64) 0x8082 (fun t => t.pc) =
      some 0x80000100#64 := by decide

theorem test_c_ebreak_K61 :
    result base 0x9002 (fun t => (t.mcause, t.mtval, t.mepc)) =
      some (0x3#64, 0x80000000#64, 0x80000000#64) := by decide

theorem test_all_zero_K62 :
    result base 0x0 (fun t => (t.mcause, t.mtval, t.mepc)) =
      some (0x2#64, 0x0#64, 0x80000000#64) := by decide

theorem test_fadd_s_F1 :
    result ((base.putF 2#5 0xffffffff3f800000#64).putF 3#5 0xffffffff33800000#64) 0x3100d3 (fun t => (t.getF 1#5, t.fcsr)) =
      some (0xffffffff3f800000#64, 0x1#8) := by decide

theorem test_fadd_s_F89 :
    result ((({ base with fcsr := 0x60#8 }).putF 2#5 0xffffffff3f800000#64).putF 3#5 0xffffffff33800000#64) 0x3170d3 (fun t => (t.getF 1#5, t.fcsr)) =
      some (0xffffffff3f800001#64, 0x61#8) := by decide

theorem test_fsub_s_F6 :
    result ((base.putF 2#5 0xffffffff7f800000#64).putF 3#5 0xffffffff7f800000#64) 0x83100d3 (fun t => (t.getF 1#5, t.fcsr)) =
      some (0xffffffff7fc00000#64, 0x10#8) := by decide

theorem test_fsub_s_F8 :
    result ((base.putF 2#5 0xffffffff3f800000#64).putF 3#5 0xffffffff3f800000#64) 0x83120d3 (fun t => (t.getF 1#5, t.fcsr)) =
      some (0xffffffff80000000#64, 0x0#8) := by decide

theorem test_fmul_s_F11 :
    result ((base.putF 2#5 0xffffffff00000000#64).putF 3#5 0xffffffff7f800000#64) 0x103100d3 (fun t => (t.getF 1#5, t.fcsr)) =
      some (0xffffffff7fc00000#64, 0x10#8) := by decide

theorem test_fmul_s_F14 :
    result ((base.putF 2#5 0xffffffff80000001#64).putF 3#5 0xffffffff3f400000#64) 0x103100d3 (fun t => (t.getF 1#5, t.fcsr)) =
      some (0xffffffff80000001#64, 0x3#8) := by decide

theorem test_fdiv_s_F15 :
    result ((base.putF 2#5 0xffffffff3f800000#64).putF 3#5 0xffffffff00000000#64) 0x183100d3 (fun t => (t.getF 1#5, t.fcsr)) =
      some (0xffffffff7f800000#64, 0x8#8) := by decide

theorem test_fdiv_s_F18 :
    result ((base.putF 2#5 0xffffffff3f800000#64).putF 3#5 0xffffffff40400000#64) 0x183100d3 (fun t => (t.getF 1#5, t.fcsr)) =
      some (0xffffffff3eaaaaab#64, 0x1#8) := by decide

theorem test_fsqrt_s_F19 :
    result (base.putF 2#5 0xffffffffbf800000#64) 0x580100d3 (fun t => (t.getF 1#5, t.fcsr)) =
      some (0xffffffff7fc00000#64, 0x10#8) := by decide

theorem test_fsqrt_s_F21 :
    result (base.putF 2#5 0xffffffff40000000#64) 0x580100d3 (fun t => (t.getF 1#5, t.fcsr)) =
      some (0xffffffff3fb504f3#64, 0x1#8) := by decide +kernel

theorem test_fmadd_s_F22 :
    result (((base.putF 2#5 0xffffffff3fc00000#64).putF 3#5 0xffffffff40000000#64).putF 4#5 0xffffffff3e800000#64) 0x203100c3 (fun t => (t.getF 1#5, t.fcsr)) =
      some (0xffffffff40500000#64, 0x0#8) := by decide

theorem test_fmadd_s_F28 :
    result (((base.putF 2#5 0xffffffff7f800000#64).putF 3#5 0xffffffff3f800000#64).putF 4#5 0xffffffffff800000#64) 0x203100c3 (fun t => (t.getF 1#5, t.fcsr)) =
      some (0xffffffff7fc00000#64, 0x10#8) := by decide

theorem test_fmsub_s_F24 :
    result (((base.putF 2#5 0xffffffff40000000#64).putF 3#5 0xffffffff40400000#64).putF 4#5 0xffffffff3f800000#64) 0x203100c7 (fun t => (t.getF 1#5, t.fcsr)) =
      some (0xffffffff40a00000#64, 0x0#8) := by decide

theorem test_fnmsub_s_F25 :
    result (((base.putF 2#5 0xffffffff40000000#64).putF 3#5 0xffffffff40400000#64).putF 4#5 0xffffffff3f800000#64) 0x203100cb (fun t => (t.getF 1#5, t.fcsr)) =
      some (0xffffffffc0a00000#64, 0x0#8) := by decide

theorem test_fnmadd_s_F26 :
    result (((base.putF 2#5 0xffffffff40000000#64).putF 3#5 0xffffffff40400000#64).putF 4#5 0xffffffff3f800000#64) 0x203100cf (fun t => (t.getF 1#5, t.fcsr)) =
      some (0xffffffffc0e00000#64, 0x0#8) := by decide

theorem test_fmin_s_F29 :
    result ((base.putF 2#5 0xffffffff7f800001#64).putF 3#5 0xffffffff3f800000#64) 0x283100d3 (fun t => (t.getF 1#5, t.fcsr)) =
      some (0xffffffff3f800000#64, 0x10#8) := by decide

theorem test_fmin_s_F34 :
    result ((base.putF 2#5 0x3f800000#64).putF 3#5 0xffffffff40000000#64) 0x283100d3 (fun t => (t.getF 1#5, t.fcsr)) =
      some (0xffffffff40000000#64, 0x0#8) := by decide

theorem test_fmax_s_F31 :
    result ((base.putF 2#5 0xffffffff80000000#64).putF 3#5 0xffffffff00000000#64) 0x283110d3 (fun t => (t.getF 1#5, t.fcsr)) =
      some (0xffffffff00000000#64, 0x0#8) := by decide

theorem test_fmax_s_F33 :
    result ((base.putF 2#5 0xffffffffff800000#64).putF 3#5 0xffffffffc0400000#64) 0x283110d3 (fun t => (t.getF 1#5, t.fcsr)) =
      some (0xffffffffc0400000#64, 0x0#8) := by decide

theorem test_fcvt_w_s_F35 :
    result (base.putF 2#5 0xffffffff40200000#64) 0xc00102d3 (fun t => (t.getX 5#5, t.fcsr)) =
      some (0x2#64, 0x1#8) := by decide

theorem test_fcvt_w_s_F43 :
    result (base.putF 2#5 0xffffffffcf000000#64) 0xc00102d3 (fun t => (t.getX 5#5, t.fcsr)) =
      some (0xffffffff80000000#64, 0x0#8) := by decide

theorem test_fcvt_wu_s_F44 :
    result (base.putF 2#5 0xffffffffbf800000#64) 0xc01102d3 (fun t => (t.getX 5#5, t.fcsr)) =
      some (0x0#64, 0x10#8) := by decide

theorem test_fcvt_wu_s_F47 :
    result (base.putF 2#5 0xffffffff4f7fffff#64) 0xc01102d3 (fun t => (t.getX 5#5, t.fcsr)) =
      some (0xffffffffffffff00#64, 0x0#8) := by decide

theorem test_fcvt_l_s_F48 :
    result (base.putF 2#5 0xffffffff5f000000#64) 0xc02102d3 (fun t => (t.getX 5#5, t.fcsr)) =
      some (0x7fffffffffffffff#64, 0x10#8) := by decide

theorem test_fcvt_l_s_F51 :
    result (base.putF 2#5 0x3f800000#64) 0xc02102d3 (fun t => (t.getX 5#5, t.fcsr)) =
      some (0x7fffffffffffffff#64, 0x10#8) := by decide

theorem test_fcvt_lu_s_F49 :
    result (base.putF 2#5 0xffffffff5f000000#64) 0xc03102d3 (fun t => (t.getX 5#5, t.fcsr)) =
      some (0x8000000000000000#64, 0x0#8) := by decide

theorem test_fcvt_lu_s_F50 :
    result (base.putF 2#5 0xffffffff7f800000#64) 0xc03102d3 (fun t => (t.getX 5#5, t.fcsr)) =
      some (0xffffffffffffffff#64, 0x10#8) := by decide

theorem test_fcvt_s_w_F52 :
    result (base.setX 6#5 0xffffffff#64) 0xd00300d3 (fun t => (t.getF 1#5, t.fcsr)) =
      some (0xffffffffbf800000#64, 0x0#8) := by decide

theorem test_fcvt_s_w_F60 :
    result (base.setX 6#5 0x0#64) 0xd00300d3 (fun t => (t.getF 1#5, t.fcsr)) =
      some (0xffffffff00000000#64, 0x0#8) := by decide

theorem test_fcvt_s_wu_F53 :
    result (base.setX 6#5 0xffffffffffffffff#64) 0xd01300d3 (fun t => (t.getF 1#5, t.fcsr)) =
      some (0xffffffff4f800000#64, 0x1#8) := by decide

theorem test_fcvt_s_l_F56 :
    result (base.setX 6#5 0x7fffffffffffffff#64) 0xd02300d3 (fun t => (t.getF 1#5, t.fcsr)) =
      some (0xffffffff5f000000#64, 0x1#8) := by decide

theorem test_fcvt_s_l_F59 :
    result (base.setX 6#5 0x8000000000000000#64) 0xd02300d3 (fun t => (t.getF 1#5, t.fcsr)) =
      some (0xffffffffdf000000#64, 0x0#8) := by decide

theorem test_fcvt_s_lu_F58 :
    result (base.setX 6#5 0xffffffffffffffff#64) 0xd03300d3 (fun t => (t.getF 1#5, t.fcsr)) =
      some (0xffffffff5f800000#64, 0x1#8) := by decide

theorem test_feq_s_F61 :
    result ((base.putF 2#5 0xffffffff7fc00000#64).putF 3#5 0xffffffff3f800000#64) 0xa03122d3 (fun t => (t.getX 5#5, t.fcsr)) =
      some (0x0#64, 0x0#8) := by decide

theorem test_feq_s_F69 :
    result ((base.putF 2#5 0x3f800000#64).putF 3#5 0x3f800000#64) 0xa03122d3 (fun t => (t.getX 5#5, t.fcsr)) =
      some (0x0#64, 0x0#8) := by decide

theorem test_flt_s_F63 :
    result ((base.putF 2#5 0xffffffff7fc00000#64).putF 3#5 0xffffffff3f800000#64) 0xa03112d3 (fun t => (t.getX 5#5, t.fcsr)) =
      some (0x0#64, 0x10#8) := by decide

theorem test_flt_s_F68 :
    result ((base.putF 2#5 0xffffffffbf800000#64).putF 3#5 0xffffffff3f800000#64) 0xa03112d3 (fun t => (t.getX 5#5, t.fcsr)) =
      some (0x1#64, 0x0#8) := by decide

theorem test_fle_s_F64 :
    result ((base.putF 2#5 0xffffffff3f800000#64).putF 3#5 0xffffffff7fc00000#64) 0xa03102d3 (fun t => (t.getX 5#5, t.fcsr)) =
      some (0x0#64, 0x10#8) := by decide

theorem test_fle_s_F67 :
    result ((base.putF 2#5 0xffffffffff800000#64).putF 3#5 0xffffffffff800000#64) 0xa03102d3 (fun t => (t.getX 5#5, t.fcsr)) =
      some (0x1#64, 0x0#8) := by decide

theorem test_fclass_s_F70 :
    result (base.putF 2#5 0xffffffffff800000#64) 0xe00112d3 (fun t => (t.getX 5#5, t.fcsr)) =
      some (0x1#64, 0x0#8) := by decide

theorem test_fclass_s_F79 :
    result (base.putF 2#5 0xffffffff7fc00000#64) 0xe00112d3 (fun t => (t.getX 5#5, t.fcsr)) =
      some (0x200#64, 0x0#8) := by decide

theorem test_fsgnjn_s_F80 :
    result ((base.putF 2#5 0xffffffff7fc00000#64).putF 3#5 0xffffffff7fc00000#64) 0x203110d3 (fun t => (t.getF 1#5, t.fcsr)) =
      some (0xffffffffffc00000#64, 0x0#8) := by decide

theorem test_fsgnjx_s_F81 :
    result ((base.putF 2#5 0xffffffffc0000000#64).putF 3#5 0xffffffffc0000000#64) 0x203120d3 (fun t => (t.getF 1#5, t.fcsr)) =
      some (0xffffffff40000000#64, 0x0#8) := by decide

theorem test_fsgnj_s_F82 :
    result ((base.putF 2#5 0xffffffff7f800001#64).putF 3#5 0xffffffff80000000#64) 0x203100d3 (fun t => (t.getF 1#5, t.fcsr)) =
      some (0xffffffffff800001#64, 0x0#8) := by decide

theorem test_fsgnj_s_F83 :
    result ((base.putF 2#5 0x3ff0000000000000#64).putF 3#5 0xffffffff80000000#64) 0x203100d3 (fun t => (t.getF 1#5, t.fcsr)) =
      some (0xffffffffffc00000#64, 0x0#8) := by decide

theorem test_fmv_x_w_F84 :
    result (base.putF 2#5 0x180000000#64) 0xe00102d3 (fun t => (t.getX 5#5, t.fcsr)) =
      some (0xffffffff80000000#64, 0x0#8) := by decide

theorem test_fmv_w_x_F85 :
    result (base.setX 6#5 0x123456783f800000#64) 0xf00300d3 (fun t => (t.getF 1#5, t.fcsr)) =
      some (0xffffffff3f800000#64, 0x0#8) := by decide

theorem test_fsw_F91 :
    result ((base.setX 6#5 0x80001000#64).putF 1#5 0x3ff0000000000000#64) 0x132027 (fun t => t.fcsr) =
      some 0x0#8 := by decide

theorem test_fadd_d_D1 :
    result ((base.putF 2#5 0x3fb999999999999a#64).putF 3#5 0x3fc999999999999a#64) 0x23100d3 (fun t => (t.getF 1#5, t.fcsr)) =
      some (0x3fd3333333333334#64, 0x1#8) := by decide

theorem test_fadd_d_D11 :
    result ((base.putF 2#5 0xffffffff3f800000#64).putF 3#5 0x3ff0000000000000#64) 0x23100d3 (fun t => (t.getF 1#5, t.fcsr)) =
      some (0x7ff8000000000000#64, 0x0#8) := by decide

theorem test_fsub_d_D3 :
    result ((base.putF 2#5 0x7ff0000000000000#64).putF 3#5 0x7ff0000000000000#64) 0xa3100d3 (fun t => (t.getF 1#5, t.fcsr)) =
      some (0x7ff8000000000000#64, 0x10#8) := by decide

theorem test_fmul_d_D4 :
    result ((base.putF 2#5 0x1#64).putF 3#5 0x3fe0000000000000#64) 0x123100d3 (fun t => (t.getF 1#5, t.fcsr)) =
      some (0x0#64, 0x3#8) := by decide

theorem test_fmul_d_D6 :
    result ((base.putF 2#5 0x7fefffffffffffff#64).putF 3#5 0x4000000000000000#64) 0x123100d3 (fun t => (t.getF 1#5, t.fcsr)) =
      some (0x7ff0000000000000#64, 0x5#8) := by decide

theorem test_fdiv_d_D7 :
    result ((base.putF 2#5 0x3ff0000000000000#64).putF 3#5 0x4008000000000000#64) 0x1a3100d3 (fun t => (t.getF 1#5, t.fcsr)) =
      some (0x3fd5555555555555#64, 0x1#8) := by decide

theorem test_fdiv_d_D8 :
    result ((base.putF 2#5 0x3ff0000000000000#64).putF 3#5 0x8000000000000000#64) 0x1a3100d3 (fun t => (t.getF 1#5, t.fcsr)) =
      some (0xfff0000000000000#64, 0x8#8) := by decide

theorem test_fsqrt_d_D9 :
    result (base.putF 2#5 0x4000000000000000#64) 0x5a0100d3 (fun t => (t.getF 1#5, t.fcsr)) =
      some (0x3ff6a09e667f3bcd#64, 0x1#8) := by decide +kernel

theorem test_fsqrt_d_D10 :
    result (base.putF 2#5 0x7ff0000000000001#64) 0x5a0100d3 (fun t => (t.getF 1#5, t.fcsr)) =
      some (0x7ff8000000000000#64, 0x10#8) := by decide

theorem test_fmin_d_D12 :
    result ((base.putF 2#5 0x7ff8000000000000#64).putF 3#5 0x3ff0000000000000#64) 0x2a3100d3 (fun t => (t.getF 1#5, t.fcsr)) =
      some (0x3ff0000000000000#64, 0x0#8) := by decide

theorem test_fmax_d_D13 :
    result ((base.putF 2#5 0x8000000000000000#64).putF 3#5 0x0#64) 0x2a3110d3 (fun t => (t.getF 1#5, t.fcsr)) =
      some (0x0#64, 0x0#8) := by decide

theorem test_fcvt_s_d_D14 :
    result (base.putF 2#5 0x483d6329f1c35ca5#64) 0x401100d3 (fun t => (t.getF 1#5, t.fcsr)) =
      some (0xffffffff7f800000#64, 0x5#8) := by decide

theorem test_fcvt_s_d_D19 :
    result (base.putF 2#5 0x3ff0000010000000#64) 0x401100d3 (fun t => (t.getF 1#5, t.fcsr)) =
      some (0xffffffff3f800000#64, 0x1#8) := by decide

theorem test_fcvt_d_s_D20 :
    result (base.putF 2#5 0xffffffff00000001#64) 0x420100d3 (fun t => (t.getF 1#5, t.fcsr)) =
      some (0x36a0000000000000#64, 0x0#8) := by decide

theorem test_fcvt_d_s_D22 :
    result (base.putF 2#5 0xffffffffff800000#64) 0x420100d3 (fun t => (t.getF 1#5, t.fcsr)) =
      some (0xfff0000000000000#64, 0x0#8) := by decide

theorem test_fcvt_w_d_D23 :
    result (base.putF 2#5 0x41e0000000000000#64) 0xc20102d3 (fun t => (t.getX 5#5, t.fcsr)) =
      some (0x7fffffff#64, 0x10#8) := by decide

theorem test_fcvt_w_d_D26 :
    result (base.putF 2#5 0x41dfffffffe00000#64) 0xc20102d3 (fun t => (t.getX 5#5, t.fcsr)) =
      some (0x7fffffff#64, 0x10#8) := by decide

theorem test_fcvt_wu_d_D27 :
    result (base.putF 2#5 0x41efffffffe00000#64) 0xc21102d3 (fun t => (t.getX 5#5, t.fcsr)) =
      some (0xffffffffffffffff#64, 0x0#8) := by decide

theorem test_fcvt_l_d_D28 :
    result (base.putF 2#5 0xc3e0000000000000#64) 0xc22102d3 (fun t => (t.getX 5#5, t.fcsr)) =
      some (0x8000000000000000#64, 0x0#8) := by decide

theorem test_fcvt_l_d_D29 :
    result (base.putF 2#5 0x43e0000000000000#64) 0xc22102d3 (fun t => (t.getX 5#5, t.fcsr)) =
      some (0x7fffffffffffffff#64, 0x10#8) := by decide

theorem test_fcvt_lu_d_D30 :
    result (base.putF 2#5 0xbfe0000000000000#64) 0xc23112d3 (fun t => (t.getX 5#5, t.fcsr)) =
      some (0x0#64, 0x1#8) := by decide

theorem test_fcvt_lu_d_D32 :
    result (base.putF 2#5 0x43efffffffffffff#64) 0xc23102d3 (fun t => (t.getX 5#5, t.fcsr)) =
      some (0xfffffffffffff800#64, 0x0#8) := by decide

theorem test_fcvt_d_w_D33 :
    result (base.setX 6#5 0xffffffff80000000#64) 0xd20300d3 (fun t => (t.getF 1#5, t.fcsr)) =
      some (0xc1e0000000000000#64, 0x0#8) := by decide

theorem test_fcvt_d_wu_D34 :
    result (base.setX 6#5 0xffffffffffffffff#64) 0xd21300d3 (fun t => (t.getF 1#5, t.fcsr)) =
      some (0x41efffffffe00000#64, 0x0#8) := by decide

theorem test_fcvt_d_l_D35 :
    result (base.setX 6#5 0x20000000000001#64) 0xd22300d3 (fun t => (t.getF 1#5, t.fcsr)) =
      some (0x4340000000000000#64, 0x1#8) := by decide

theorem test_fcvt_d_l_D36 :
    result (base.setX 6#5 0x20000000000001#64) 0xd22330d3 (fun t => (t.getF 1#5, t.fcsr)) =
      some (0x4340000000000001#64, 0x1#8) := by decide

theorem test_fcvt_d_lu_D37 :
    result (base.setX 6#5 0xffffffffffffffff#64) 0xd23300d3 (fun t => (t.getF 1#5, t.fcsr)) =
      some (0x43f0000000000000#64, 0x1#8) := by decide

theorem test_feq_d_D38 :
    result ((base.putF 2#5 0x7ff8000000000000#64).putF 3#5 0x7ff8000000000000#64) 0xa23122d3 (fun t => (t.getX 5#5, t.fcsr)) =
      some (0x0#64, 0x0#8) := by decide

theorem test_flt_d_D39 :
    result ((base.putF 2#5 0x3ff0000000000000#64).putF 3#5 0x7ff8000000000000#64) 0xa23112d3 (fun t => (t.getX 5#5, t.fcsr)) =
      some (0x0#64, 0x10#8) := by decide

theorem test_fle_d_D40 :
    result ((base.putF 2#5 0x8000000000000000#64).putF 3#5 0x0#64) 0xa23102d3 (fun t => (t.getX 5#5, t.fcsr)) =
      some (0x1#64, 0x0#8) := by decide

theorem test_fclass_d_D41 :
    result (base.putF 2#5 0xffffffff3f800000#64) 0xe20112d3 (fun t => (t.getX 5#5, t.fcsr)) =
      some (0x200#64, 0x0#8) := by decide

theorem test_fclass_d_D44 :
    result (base.putF 2#5 0x7ff4000000000000#64) 0xe20112d3 (fun t => (t.getX 5#5, t.fcsr)) =
      some (0x100#64, 0x0#8) := by decide

theorem test_fsgnjn_d_D45 :
    result ((base.putF 2#5 0x3ff0000000000000#64).putF 3#5 0x3ff0000000000000#64) 0x223110d3 (fun t => (t.getF 1#5, t.fcsr)) =
      some (0xbff0000000000000#64, 0x0#8) := by decide

theorem test_fsgnjx_d_D46 :
    result ((base.putF 2#5 0xfff0000000000000#64).putF 3#5 0xfff0000000000000#64) 0x223120d3 (fun t => (t.getF 1#5, t.fcsr)) =
      some (0x7ff0000000000000#64, 0x0#8) := by decide

theorem test_fmv_x_d_D47 :
    result (base.putF 2#5 0x7ff0000000000001#64) 0xe20102d3 (fun t => (t.getX 5#5, t.fcsr)) =
      some (0x7ff0000000000001#64, 0x0#8) := by decide

theorem test_fmv_d_x_D48 :
    result (base.setX 6#5 0xffffffff3f800000#64) 0xf20300d3 (fun t => (t.getF 1#5, t.fcsr)) =
      some (0xffffffff3f800000#64, 0x0#8) := by decide

theorem test_fmadd_d_D49 :
    result (((base.putF 2#5 0x3ff0000000000001#64).putF 3#5 0x3ff0000000000001#64).putF 4#5 0xbff0000000000002#64) 0x223100c3 (fun t => (t.getF 1#5, t.fcsr)) =
      some (0x3970000000000000#64, 0x0#8) := by decide

theorem test_fmsub_d_D50 :
    result (((base.putF 2#5 0x4000000000000000#64).putF 3#5 0x4008000000000000#64).putF 4#5 0x3ff0000000000000#64) 0x223100c7 (fun t => (t.getF 1#5, t.fcsr)) =
      some (0x4014000000000000#64, 0x0#8) := by decide

theorem test_fnmsub_d_D51 :
    result (((base.putF 2#5 0x4000000000000000#64).putF 3#5 0x4008000000000000#64).putF 4#5 0x3ff0000000000000#64) 0x223100cb (fun t => (t.getF 1#5, t.fcsr)) =
      some (0xc014000000000000#64, 0x0#8) := by decide

theorem test_fnmadd_d_D52 :
    result (((base.putF 2#5 0x4000000000000000#64).putF 3#5 0x4008000000000000#64).putF 4#5 0x3ff0000000000000#64) 0x223100cf (fun t => (t.getF 1#5, t.fcsr)) =
      some (0xc01c000000000000#64, 0x0#8) := by decide

theorem test_fsgnj_d_D53 :
    result ((base.putF 2#5 0x3ff0000000000000#64).putF 3#5 0x8000000000000000#64) 0x223100d3 (fun t => (t.getF 1#5, t.fcsr)) =
      some (0xbff0000000000000#64, 0x0#8) := by decide

theorem test_fld_D56 :
    result (base.setX 6#5 0x80001000#64) 0x433087 (fun t => (t.mcause, t.mtval)) =
      some (0x4#64, 0x80001004#64) := by decide

theorem test_fsd_D55 :
    result ((base.setX 6#5 0x80001008#64).putF 1#5 0xffffffff3f800000#64) 0xfe133c27 (fun t => (t.loadMem 0x80001000 8, t.fcsr)) =
      some (0xffffffff3f800000#64, 0x0#8) := by decide

/-! ## Instructions the vector tables of spec/96 give only an expansion for: worked out by hand from their rules -/

/-- spec/96 V-X20: `FENCE.TSO` executes as `FENCE` (R489). -/
theorem test_fence_X20 : result base 0x8330000F (fun t => (t.pc, t.minstret)) = some (0x80000004#64, 1#64) := by decide

/-- spec/96 V-X21: `FENCE.I` with non-zero fields (R662). -/
theorem test_fence_i_X21 : result base 0x1233128F (fun t => (t.pc, t.getX 5#5)) = some (0x80000004#64, 0#64) := by decide

/-- `csrrsi x5, mscratch, 3` (R657). -/
theorem test_csrrsi : result { base with mscratch := 0x10#64 } 0x3401E2F3 (fun t => (t.getX 5#5, t.mscratch)) =
    some (0x10#64, 0x13#64) := by decide

/-- `csrrsi x5, cycle, 0` reads a read-only CSR: a zero field does not write (R657). -/
theorem test_csrrsi_no_write : result { base with mcycle := 7#64 } 0xC00062F3 (fun t => (t.getX 5#5, t.mcause)) =
    some (7#64, 0#64) := by decide

/-- spec/96 V-K1: `addi x15, x2, 1020`. -/
theorem test_c_addi4spn_K1 : result (base.setX 2#5 0x80000000#64) 0x1FFC (fun t => (t.getX 15#5, t.pc)) =
    some (0x800003FC#64, 0x80000002#64) := by decide

/-- spec/96 V-K4: `lw x8, 64(x15)`. -/
theorem test_c_lw_K4 : result ((base.setX 15#5 0x80000FC0#64).withData 0x8899AABBCCDDEEFF) 0x43A0 (fun t => t.getX 8#5) =
    some 0xFFFFFFFFCCDDEEFF#64 := by decide

/-- spec/96 V-K5: `ld x9, 248(x10)`. -/
theorem test_c_ld_K5 : result ((base.setX 10#5 0x80000F08#64).withData 0x8899AABBCCDDEEFF) 0x7D64 (fun t => t.getX 9#5) =
    some 0x8899AABBCCDDEEFF#64 := by decide

/-- spec/96 V-K30: `fld f8, 248(x15)`, which makes `FS` Dirty (R554). -/
theorem test_c_fld_K30 : result ((base.setX 15#5 0x80000F08#64).withData 0x7FF0000000000001) 0x3FE0
    (fun t => (t.getF 8#5, t.mstatus)) = some (0x7FF0000000000001#64, 0x6000#64) := by decide

/-- spec/96 V-K31: `fsd f9, 248(x10)`. -/
theorem test_c_fsd_K31 : result ((base.setX 10#5 0x80000F08#64).putF 9#5 0x1122334455667788#64) 0xBD64
    (fun t => (t.loadMem 0x80001000 8, t.mstatus)) = some (0x1122334455667788#64, 0x2000#64) := by decide

/-- spec/96 V-K6: `sd x9, 192(x10)`. -/
theorem test_c_sd_K6 : result ((base.setX 10#5 0x80000F40#64).setX 9#5 0x1122334455667788#64) 0xE164
    (fun t => t.loadMem 0x80001000 8) = some 0x1122334455667788#64 := by decide

/-- spec/96 V-X40: a hint that decodes to `C.NOP`. -/
theorem test_c_nop_X40 : result base 0x0005 (fun t => (t.pc, t.getX 0#5)) = some (0x80000002#64, 0#64) := by decide

/-- spec/96 V-K8: `addi x10, x10, 31`. -/
theorem test_c_addi_K8 : result (base.setX 10#5 1#64) 0x057D (fun t => t.getX 10#5) = some 32#64 := by decide

/-- `c.addiw x10, 0` sign-extends the low word (R710). -/
theorem test_c_addiw : result (base.setX 10#5 0x80000000#64) 0x2501 (fun t => t.getX 10#5) =
    some 0xFFFFFFFF80000000#64 := by decide

/-- spec/96 V-K39. -/
theorem test_c_li_K39 : result base 0x5501 (fun t => (t.getX 10#5, t.pc)) =
    some (0xFFFFFFFFFFFFFFE0#64, 0x80000002#64) := by decide

/-- spec/96 V-K10: `addi x2, x2, -512`. -/
theorem test_c_addi16sp_K10 : result (base.setX 2#5 0x80001000#64) 0x7101 (fun t => t.getX 2#5) =
    some 0x80000E00#64 := by decide

/-- spec/96 V-K13: the immediate is -131072. -/
theorem test_c_lui_K13 : result base 0x7501 (fun t => t.getX 10#5) = some 0xFFFFFFFFFFFE0000#64 := by decide

/-- spec/96 V-K57. -/
theorem test_c_j_K57 : result base 0xB001 (fun t => t.pc) = some 0x7FFFF800#64 := by decide

/-- spec/96 V-K18, taken. -/
theorem test_c_beqz_K18 : result base 0xCC7D (fun t => t.pc) = some 0x800000FE#64 := by decide

/-- spec/96 V-K18, not taken. -/
theorem test_c_beqz_not_taken : result (base.setX 8#5 1#64) 0xCC7D (fun t => t.pc) = some 0x80000002#64 := by decide

/-- `c.slli x10, 33` (R726). -/
theorem test_c_slli : result (base.setX 10#5 1#64) 0x1506 (fun t => t.getX 10#5) = some 0x200000000#64 := by decide

/-- spec/96 V-K33: `fld f1, 504(x2)`. -/
theorem test_c_fldsp_K33 : result ((base.setX 2#5 0x80000E08#64).withData 0x8899AABBCCDDEEFF) 0x30FE
    (fun t => t.getF 1#5) = some 0x8899AABBCCDDEEFF#64 := by decide

/-- spec/96 V-K21: `lw x1, 252(x2)`. -/
theorem test_c_lwsp_K21 : result ((base.setX 2#5 0x80000F04#64).withData 0x8899AABBCCDDEEFF) 0x50FE
    (fun t => t.getX 1#5) = some 0xFFFFFFFFCCDDEEFF#64 := by decide

/-- spec/96 V-K23: `ld x1, 504(x2)`. -/
theorem test_c_ldsp_K23 : result ((base.setX 2#5 0x80000E08#64).withData 0x8899AABBCCDDEEFF) 0x70FE
    (fun t => t.getX 1#5) = some 0x8899AABBCCDDEEFF#64 := by decide

/-- spec/96 V-X37: the target is read before `x1` is written. -/
theorem test_c_jalr_X37 : result (base.setX 1#5 0x80000101#64) 0x9082 (fun t => (t.pc, t.getX 1#5)) =
    some (0x80000100#64, 0x80000002#64) := by decide

/-- spec/96 V-K36: `fsd f1, 64(x2)`. -/
theorem test_c_fsdsp_K36 : result ((base.setX 2#5 0x80000FC0#64).putF 1#5 0x1122334455667788#64) 0xA086
    (fun t => t.loadMem 0x80001000 8) = some 0x1122334455667788#64 := by decide

/-- spec/96 V-K25: `sw x1, 252(x2)`. -/
theorem test_c_swsp_K25 : result ((base.setX 2#5 0x80000F04#64).setX 1#5 0x1122334455667788#64) 0xDF86
    (fun t => t.loadMem 0x80001000 8) = some 0x55667788#64 := by decide

/-- spec/96 V-K27: `sd x31, 8(x2)`. -/
theorem test_c_sdsp_K27 : result ((base.setX 2#5 0x80000FF8#64).setX 31#5 0x1122334455667788#64) 0xE47E
    (fun t => t.loadMem 0x80001000 8) = some 0x1122334455667788#64 := by decide

/-- spec/96 V-L23: the CLINT answers `mtimecmp`. -/
theorem test_ld_clint_L23 : result ({ base with mtimecmp := 0x1234#64 }.setX 6#5 0x2004000#64) 0x33283
    (fun t => t.getX 5#5) = some 0x1234#64 := by decide

/-- spec/97 V-F90: the word at `0x80001004`. -/
theorem test_flw_F90 : result ((base.setX 6#5 0x80001000#64).withData 0x3F80000000000000) 0x432087
    (fun t => (t.getF 1#5, t.fcsr, t.mstatus)) = some (0xFFFFFFFF3F800000#64, 0#8, 0x6000#64) := by decide

/-- spec/97 V-D54, from `0x80001000`: a signaling NaN is loaded unchanged. -/
theorem test_fld_D54 : result ((base.setX 6#5 0x80000FF8#64).withData 0x7FF0000000000001) 0x833087
    (fun t => (t.getF 1#5, t.fcsr, t.mstatus)) = some (0x7FF0000000000001#64, 0#8, 0x6000#64) := by decide

/-! ## The machine -/

/-- spec/95 S1: the halt command. The next step changes nothing (R801). -/
theorem test_halt_S1 : result ((base.setX 6#5 0x40008000#64).setX 7#5 1#64) 0x733023
    (fun t => (t.halted, t.tohost, t.runStatus)) = some (true, 1#64, some .halted) := by decide

/-- spec/95 S2: the putchar command. -/
theorem test_putchar_S2 : result ((base.setX 6#5 0x40008000#64).setX 7#5 0x0101000000000041#64) 0x733023
    (fun t => (t.consoleOut, t.tohost, t.fromhost)) = some ([0x41#8], 0#64, 0x0101000000000000#64) := by decide

/-- spec/95 S3: the timer interrupt at `mcycle = 1000`; the trap entry precedes the fetch, here of an illegal parcel. -/
theorem test_timer_S3 :
    { base with mcycle := 1000#64, mtimecmp := 10#64, mie := 0x80#64, mstatus := 8#64 }.sampleTimer.interruptCheck.mcause =
      0x8000000000000007#64 := by decide

/-- The same one cycle earlier: no interrupt. -/
theorem test_timer_S3_before :
    { base with mcycle := 999#64, mtimecmp := 10#64, mie := 0x80#64, mstatus := 8#64 }.sampleTimer.pendingInterrupt =
      none := by decide

/-- From reset with nothing placed the first parcel is all zeros: an illegal instruction (entry 8). -/
theorem test_reset_step : result State.reset 0 (fun t => (t.pc, t.mcause, t.mepc)) = some (0#64, 2#64, 0x1000#64) := by
  decide

/-- A host write of memory before the step is seen by the step's fetch (R885): `c.li x10, -32`. -/
theorem test_host_write :
    result { base with hostInputs := [[.writeMemory 0x80000000#64 [0x01#8, 0x55#8]]] } 0 (fun t => (t.getX 10#5, t.hostInputs)) =
      some (0xFFFFFFFFFFFFFFE0#64, []) := by decide

/-- A supervisor state with an Sv39 root table at `0x80002000` whose entry 2 is a 1 GiB page at `0x80000000`. -/
def paged : State :=
  { base with priv := .supervisor, satp := 0x8000000000080002#64, mem := base.mem.store 0x80002010 8 0x2000000F }

/-- The fetch, the load and the store walk the table; the store sets A and D of the leaf (R254, R255). -/
theorem test_paged_store : result ((paged.setX 6#5 0x80001000#64).setX 7#5 0x77#64) 0x733023
    (fun t => (t.loadMem 0x80001000 8, t.loadMem 0x80002010 8)) = some (0x77#64, 0x200000CF#64) := by decide

/-- A page fault on a load carries the address (R254, R840). -/
theorem test_paged_fault : result (paged.setX 6#5 0x1000#64) 0x33283 (fun t => (t.mcause, t.mtval, t.priv)) =
    some (13#64, 0x1000#64, .machine) := by decide

/-! ## Witnesses: for every statement with hypotheses, a state and operands that meet them -/

/-- The RAM entry of the default map. -/
def ram : PmaEntry :=
  { start := 0x80000000, length := 0x100000, kind := .memory,
    r := true, w := true, x := true, ir := true, iw := true, did := 3 }

/-- The CLINT entry of the default map. -/
def clint : PmaEntry :=
  { start := 0x2000000, length := 0xC0000, kind := .clint,
    r := true, w := true, x := false, ir := false, iw := false, did := 1 }

/-- The HTIF entry of the default map. -/
def htif : PmaEntry :=
  { start := 0x40008000, length := 0x1000, kind := .htif,
    r := true, w := true, x := false, ir := false, iw := false, did := 2 }

/-- The state with `x6 = v`. -/
def at6 (v : Word) : State := base.setX 6#5 v

/-- An access that is not translated. -/
theorem translate_untranslated {s : State} {acc : Access} (hb : s.bare acc = true) (va : Word) :
    Machine.translate s va acc = .ok va s := by
  simp only [Machine.translate, hb, if_true]

theorem at6_bare (a : Word) (acc : Access) : (at6 a).bare acc = true := by
  cases acc <;> simp [at6, base, State.bare, State.effPriv, State.setX, State.reset, State.mprv]

/-- Such an access to RAM reaches it. -/
theorem reaches_ram {s : State} {va : Word} {n : Nat} {acc : Access} (ha : va.toNat % n = 0) (hb : s.bare acc = true)
    (hf : findPma s.cfg.pma va.toNat n = some ram) : Reaches s va n acc va ram s :=
  ⟨ha, translate_untranslated hb va, hf, rfl, by cases acc <;> rfl⟩

theorem base_inv : base.Inv := by
  constructor <;> decide

theorem witness_StepKeepsInv : base.Inv ∧ ∃ t, step base = .next t := ⟨base_inv, _, rfl⟩

theorem witness_DecodeEncode : (Instr.cLui 1#5 0x20#6).WF ∧ (Instr.jal 0#5 0x80000#20).WF := by decide

theorem witness_EncodeDecode :
    decode (.half 0x0028#16) = some (.cAddi4spn 2#3 2#8) ∧ decode (.word 0xFF9FF0EF#32) = some (.jal 1#5 0xFFFFC#20) := by
  decide

theorem witness_ReservedHalfwordsIllegal : (31#5 : BitVec 5) ≠ 2#5 ∧ decode (.half 0x0000#16) = none := by decide

/-- A next instruction that decodes, one that does not, and a fetch that raises. -/
theorem witness_StepRunsDecodedInstruction :
    (let s := base.withFetchWord 32 0xFFF30293
     s.hostInputs = [] ∧ s.runStatus = none ∧ s.idle = false ∧
       fetch s.sampleTimer.interruptCheck = .ok (.word 0xFFF30293#32) s.sampleTimer.interruptCheck ∧
       decode (.word 0xFFF30293#32) = some (.addi 5#5 6#5 0xFFF#12)) ∧
    (fetch base.sampleTimer.interruptCheck = .ok (.half 0#16) base.sampleTimer.interruptCheck ∧ decode (.half 0#16) = none) ∧
    (let s := { base with pc := 0#64 }
     s.hostInputs = [] ∧ s.runStatus = none ∧ s.idle = false ∧
       fetch s.sampleTimer.interruptCheck = .raised .instructionAccessFault 0#64 s.sampleTimer.interruptCheck) := by
  decide

/-- A 32-bit instruction in the last four bytes of RAM. -/
theorem witness_Fetch_word :
    let s := { base with pc := 0x800FFFFC#64 }.withFetchWord 32 0xFFF30293
    let i : Instr := .addi 5#5 6#5 0xFFF#12
    i.WF ∧ s.pc.getLsbD 0 = false ∧ s.bare .fetch = true ∧ findPma s.cfg.pma s.pc.toNat 2 = some ram ∧ ram.x = true ∧
      ram.kind = .memory ∧ findPma s.cfg.pma (s.pc + 2#64).toNat 2 = some ram ∧
      (encode i).bytes = [s.mem.byte s.pc.toNat, s.mem.byte (s.pc.toNat + 1), s.mem.byte ((s.pc + 2#64).toNat + 0),
        s.mem.byte ((s.pc + 2#64).toNat + 1)] := by
  decide

/-- A 16-bit instruction in the last two bytes of RAM, whose second parcel would lie outside. -/
theorem witness_Fetch_half :
    let s := { base with pc := 0x800FFFFE#64 }.withFetchWord 16 0x5501
    let i : Instr := .cLi 10#5 0x20#6
    i.WF ∧ i.ilen = 2 ∧ s.pc.getLsbD 0 = false ∧ s.bare .fetch = true ∧ findPma s.cfg.pma s.pc.toNat 2 = some ram ∧
      findPma s.cfg.pma (s.pc + 2#64).toNat 2 = none ∧
      (encode i).bytes = [s.mem.byte s.pc.toNat, s.mem.byte (s.pc.toNat + 1)] := by
  decide

/-- The second parcel of a 32-bit instruction at the end of RAM lies in no entry; so does the first one at address 0. -/
theorem witness_Fetch_faults :
    (let s := { base with pc := 0x800FFFFE#64, mem := base.mem.store 0x800FFFFE 2 0x0003 }
     s.pc.getLsbD 0 = false ∧ fetchParcel s s.pc = .ok 0x0003#16 s ∧ translate s (s.pc + 2#64) .fetch = .ok 0x80100000#64 s ∧
       findPma s.cfg.pma 0x80100000 2 = none) ∧
    (findPma base.cfg.pma 0 2 = none ∧ translate base 0#64 .fetch = .ok 0#64 base) ∧
    ({ base with pc := 1#64 }.pc.getLsbD 0 = true) ∧
    translate { paged with priv := .user } 0x80000000#64 .fetch =
      .raised .instructionPageFault 0x80000000#64 { paged with priv := .user } := by
  decide

/-- A supervisor state whose code pages `0x80000000` and `0x80001000` lie at `0x80005000` and `0x80007000`, with
`addi x5, x6, -1` across their border. The leaf of the first page has A clear. -/
def twoPages : State :=
  { base with
    pc := 0x80000FFE#64, priv := .supervisor, satp := 0x8000000000080002#64,
    mem := ((((((base.mem.store 0x80002010 8 0x20000C01).store 0x80003000 8 0x20001001).store 0x80004000 8 0x2000140B).store
      0x80004008 8 0x20001C4B).store 0x80005FFE 2 0x0293).store 0x80007000 2 0xFFF3) }

/-- The two parcels are translated independently (R243): the walk of the first sets the A bit of its leaf, in the state that the
second walk starts from. -/
theorem witness_Fetch_translated :
    ∃ s1 s2, translate twoPages twoPages.pc .fetch = .ok 0x80005FFE#64 s1 ∧
      translate s1 (twoPages.pc + 2#64) .fetch = .ok 0x80007000#64 s2 ∧
      (findPma s1.cfg.pma 0x80005FFE 2 = some ram ∧ findPma s2.cfg.pma 0x80007000 2 = some ram) ∧
      (encode (.addi 5#5 6#5 0xFFF#12)).bytes =
        [s1.mem.byte 0x80005FFE, s1.mem.byte 0x80005FFF, s2.mem.byte 0x80007000, s2.mem.byte 0x80007001] ∧
      s1.mem.byte 0x80004000 = 0x4B#8 :=
  ⟨_, _, rfl, rfl, by decide, by decide, by decide⟩

/-- The same, with no page behind the second parcel. -/
theorem witness_Fetch_refused :
    let s : State := { twoPages with mem := twoPages.mem.store 0x80004008 8 0 }
    ∃ s1 : State, translate s s.pc .fetch = .ok 0x80005FFE#64 s1 ∧ (s1.mem.byte 0x80005FFE).getLsbD 0 = true ∧
      (s1.mem.byte 0x80005FFE).getLsbD 1 = true ∧
      translate s1 0x80001000#64 .fetch = .raised .instructionPageFault 0x80001000#64 s1 :=
  ⟨_, rfl, by decide, by decide, by decide⟩

/-- The device windows are no place to fetch from. -/
theorem witness_Fetch_device : findPma base.cfg.pma 0x2000000 2 = some clint ∧ clint.x = false := by decide

/-! ### Loads, stores, atomics -/

/-- The last byte, halfword, word and doubleword of RAM, and its first doubleword. -/
theorem witness_LoadsAndStores_loads :
    (let s := at6 0x80100000#64
     Reaches s (s.effAddr 6#5 0xFFF#12) 1 .load 0x800FFFFF#64 ram s ∧ BytesAre s 0x800FFFFF 1 0 ∧
       Reaches s (s.effAddr 6#5 0xFFE#12) 2 .load 0x800FFFFE#64 ram s ∧ BytesAre s 0x800FFFFE 2 0 ∧
       Reaches s (s.effAddr 6#5 0xFFC#12) 4 .load 0x800FFFFC#64 ram s ∧ BytesAre s 0x800FFFFC 4 0 ∧
       Reaches s (s.effAddr 6#5 0xFF8#12) 8 .load 0x800FFFF8#64 ram s ∧ BytesAre s 0x800FFFF8 8 0) ∧
    (let s := (at6 0x80001000#64).withData 0x8899AABBCCDDEEFF
     Reaches s (s.effAddr 6#5 0#12) 8 .load 0x80001000#64 ram s ∧ BytesAre s 0x80001000 8 0x8899AABBCCDDEEFF) := by
  simp only [BytesAre]
  refine ⟨⟨reaches_ram ?_ ?_ ?_, ?_, reaches_ram ?_ ?_ ?_, ?_, reaches_ram ?_ ?_ ?_, ?_, reaches_ram ?_ ?_ ?_, ?_⟩,
    reaches_ram ?_ ?_ ?_, ?_⟩ <;> decide

/-- A translated load: the walk sets the A bit of the leaf and fills the read TLB. -/
theorem witness_LoadsAndStores_translated :
    ∃ s1, Reaches (paged.setX 6#5 0x80001000#64) 0x80001000#64 8 .load 0x80001000#64 ram s1 ∧ s1 ≠ paged.setX 6#5 0x80001000#64 :=
  ⟨_, ⟨by decide, rfl, by decide, rfl, rfl⟩, by decide⟩

/-- The last bytes of RAM for each width. -/
theorem witness_LoadsAndStores_stores :
    let s := at6 0x80100000#64
    s.mem.wf = true ∧ Reaches s (s.effAddr 6#5 0xFFF#12) 1 .store 0x800FFFFF#64 ram s ∧
      Reaches s (s.effAddr 6#5 0xFFE#12) 2 .store 0x800FFFFE#64 ram s ∧
      Reaches s (s.effAddr 6#5 0xFFC#12) 4 .store 0x800FFFFC#64 ram s ∧
      Reaches s (s.effAddr 6#5 0xFF8#12) 8 .store 0x800FFFF8#64 ram s := by
  refine ⟨by decide, reaches_ram ?_ ?_ ?_, reaches_ram ?_ ?_ ?_, reaches_ram ?_ ?_ ?_, reaches_ram ?_ ?_ ?_⟩ <;> decide

/-- One byte off, for a load, a store and an atomic; an FP load with the unit on. -/
theorem witness_MisalignedAccessTraps :
    let s := at6 0x80001001#64
    (accessOf (.ld 5#5 6#5 0#12) s = some ⟨.load, 0x80001001#64, 8, false⟩ ∧ (0x80001001#64).toNat % 8 ≠ 0) ∧
      (accessOf (.sh 6#5 5#5 0#12) s = some ⟨.store, 0x80001001#64, 2, false⟩ ∧ (0x80001001#64).toNat % 2 ≠ 0) ∧
      accessOf (.lrW 5#5 6#5 0#1 0#1) s = some ⟨.load, 0x80001001#64, 4, true⟩ ∧
      accessOf (.flw 1#5 6#5 0#12) s = some ⟨.load, 0x80001001#64, 4, false⟩ ∧ s.fs ≠ 0#2 := by
  decide

/-- A page fault, an access outside every entry, a store to ROM, an atomic on a device. -/
theorem witness_DataAccessFaults :
    (let s := paged.setX 6#5 0x1000#64
     accessOf (.ld 5#5 6#5 0#12) s = some ⟨.load, 0x1000#64, 8, false⟩ ∧
       translate s 0x1000#64 .load = .raised .loadPageFault 0x1000#64 s) ∧
    (let s := at6 0x80100000#64
     accessOf (.lb 5#5 6#5 0#12) s = some ⟨.load, 0x80100000#64, 1, false⟩ ∧
       translate s 0x80100000#64 .load = .ok 0x80100000#64 s ∧ findPma s.cfg.pma 0x80100000 1 = none) ∧
    (let s := at6 0x1000#64
     accessOf (.sd 6#5 5#5 0#12) s = some ⟨.store, 0x1000#64, 8, false⟩ ∧ translate s 0x1000#64 .store = .ok 0x1000#64 s ∧
       (findPma s.cfg.pma 0x1000 8).map (·.w) = some false) ∧
    (let s := at6 0x2004000#64
     accessOf (.amoaddD 5#5 6#5 7#5 0#1 0#1) s = some ⟨.store, 0x2004000#64, 8, true⟩ ∧
       translate s 0x2004000#64 .store = .ok 0x2004000#64 s ∧ findPma s.cfg.pma 0x2004000 8 = some clint ∧
       clint.kind ≠ .memory) := by
  decide

/-- A jump and a load that complete, and a load whose translation raises. -/
theorem witness_OnlyStoresChangeMemory :
    (∃ t, exec (.jal 1#5 8#20) base = .next t) ∧ accessOf (.jal 1#5 8#20) base = none ∧
      (∃ t, exec (.ld 5#5 6#5 0#12) (at6 0x80001000#64) = .next t) ∧
      accessOf (.ld 5#5 6#5 0#12) (at6 0x80001000#64) = some ⟨.load, 0x80001000#64, 8, false⟩ ∧
      (∃ s1, translate (at6 0x80001000#64) 0x80001000#64 .load = .ok 0x80001000#64 s1) ∧
      (∃ t, exec (.ld 5#5 6#5 0#12) (paged.setX 6#5 0x1000#64) = .next t) ∧
      accessOf (.ld 5#5 6#5 0#12) (paged.setX 6#5 0x1000#64) = some ⟨.load, 0x1000#64, 8, false⟩ ∧
      ∃ s1, translate (paged.setX 6#5 0x1000#64) 0x1000#64 .load = .raised .loadPageFault 0x1000#64 s1 :=
  ⟨⟨_, rfl⟩, rfl, ⟨_, rfl⟩, by decide, ⟨_, rfl⟩, ⟨_, rfl⟩, by decide, _, rfl⟩

theorem at6_effAddr (a : Word) : (at6 a).effAddr 6#5 0#12 = a := by
  simp [State.effAddr, at6, State.getX, State.setX, immI, show sext64 0#12 = 0#64 from rfl]

/-- The base of the compressed forms, and their offset 0. -/
theorem compressed_addresses (a : Word) :
    (base.setX 8#5 a).getX (cReg 0#3) + offD 0#5 = a ∧ (base.setX 2#5 a).getX spReg + offD 0#6 = a := by
  simp [cReg, spReg, State.getX, State.setX, show offD 0#5 = 0#64 from rfl, show offD 0#6 = 0#64 from rfl]

/-- The listed offsets, one beside them, the top doubleword, a misaligned address, narrow accesses, and the compressed forms. -/
theorem witness_DeviceLoads :
    (∀ a : Word, (at6 a).effAddr 6#5 0#12 = a ∧ Machine.translate (at6 a) a .load = .ok a (at6 a)) ∧
    (∀ a : Word, (base.setX 8#5 a).getX (cReg 0#3) + offD 0#5 = a ∧ (base.setX 2#5 a).getX spReg + offD 0#6 = a) ∧
    [0x2000000, 0x2004000, 0x200BFF8, 0x2000008, 0x20BFFF8].map (findPma Config.defaultPma · 8) = List.replicate 5 (some clint) ∧
    [0x40008000, 0x40008008, 0x40008010, 0x40008FF8].map (findPma Config.defaultPma · 8) = List.replicate 4 (some htif) ∧
    (clint.r = true ∧ htif.r = true ∧ base.fs ≠ 0#2 ∧ (0x2004001#64).toNat % 8 ≠ 0) ∧
    accessOf (.lw 5#5 6#5 0#12) (at6 0x2004004#64) = some ⟨.load, 0x2004004#64, 4, false⟩ ∧
    accessOf (.cLwsp 5#5 0#6) (base.setX 2#5 0x40008004#64) = some ⟨.load, 0x40008004#64, 4, false⟩ ∧
    findPma Config.defaultPma 0x2004004 4 = some clint ∧ findPma Config.defaultPma 0x40008004 4 = some htif :=
  ⟨fun a => ⟨at6_effAddr a, translate_untranslated (at6_bare a _) a⟩, compressed_addresses, by decide, by decide, by decide,
    by decide, by decide, by decide, by decide⟩

/-- The same offsets for stores, the five commands of `tohost` with one that is none of them, and narrow accesses. -/
theorem witness_DeviceWrites :
    (∀ a : Word, (at6 a).effAddr 6#5 0#12 = a ∧ Machine.translate (at6 a) a .store = .ok a (at6 a)) ∧
    (∀ a : Word, (base.setX 8#5 a).getX (cReg 0#3) + offD 0#5 = a ∧ (base.setX 2#5 a).getX spReg + offD 0#6 = a) ∧
    [0x2000000, 0x2004000, 0x200BFF8, 0x2000008, 0x20BFFF8].map (findPma Config.defaultPma · 8) = List.replicate 5 (some clint) ∧
    [0x40008000, 0x40008008, 0x40008FF8].map (findPma Config.defaultPma · 8) = List.replicate 3 (some htif) ∧
    (clint.w = true ∧ htif.w = true ∧ base.fs ≠ 0#2) ∧ ((1#64).getLsbD 0 = true ∧ (3#64).getLsbD 1 = true) ∧
    (slice 0x0101000000000041#64 56 8 = 1#8 ∧ slice 0x0101000000000041#64 48 8 = 1#8) ∧
    (slice 0x0201000000000000#64 56 8 = 2#8 ∧ slice 0x0201000000000000#64 48 8 = 1#8) ∧
    (slice 0x0000000000000001#64 56 8 = 0#8 ∧ slice 0x0300000000000001#64 56 8 = 3#8) ∧
    (accessOf (.sw 6#5 5#5 0#12) (at6 0x2004004#64) = some ⟨.store, 0x2004004#64, 4, false⟩ ∧
      accessOf (.scW 5#5 6#5 7#5 0#1 0#1) (at6 0x2004004#64) = some ⟨.store, 0x2004004#64, 4, true⟩ ∧
      findPma Config.defaultPma 0x2004004 4 = some clint) :=
  ⟨fun a => ⟨at6_effAddr a, translate_untranslated (at6_bare a _) a⟩, compressed_addresses, by decide, by decide, by decide,
    by decide, by decide, by decide, by decide, by decide⟩

theorem witness_FencesAndWaits :
    base.priv = .machine ∧
      (let s := { base with priv := .supervisor, mstatus := 0x300000#64 }
       s.priv ≠ .machine ∧ s.tw = true ∧ s.tvm = true) ∧
      (let s := { base with priv := .supervisor }
       s.tw = false ∧ s.tvm = false) ∧ (1#5 : BitVec 5) ≠ 0#5 := by
  decide

theorem witness_MultiplyDivide :
    (let s := (at6 0x8000000000000000#64).setX 7#5 0xFFFFFFFFFFFFFFFF#64
     s.getX 6#5 = 0x8000000000000000#64 ∧ s.getX 7#5 = 0xFFFFFFFFFFFFFFFF#64) ∧
    (let s := (at6 0x80000000#64).setX 7#5 0xFFFFFFFF#64
     (s.getX 6#5).setWidth 32 = 0x80000000#32 ∧ (s.getX 7#5).setWidth 32 = 0xFFFFFFFF#32) := by
  decide

/-- A load-reserved at the last word and doubleword of RAM; a store-conditional with the reservation, with one of the other
size, and with none. -/
theorem witness_LoadReservedStoreConditional :
    (let s := at6 0x800FFFFC#64
     Reaches s (s.getX 6#5) 4 .load 0x800FFFFC#64 ram s ∧ BytesAre s 0x800FFFFC 4 0 ∧
       Reaches s (s.getX 6#5) 4 .store 0x800FFFFC#64 ram s ∧ ram.r = true ∧ s.mem.wf = true ∧
       s.ilrsc ≠ some ⟨0x800FFFFC#64, 4⟩) ∧
    (let s := { at6 0x800FFFF8#64 with ilrsc := some ⟨0x800FFFF8#64, 8⟩ }
     Reaches s (s.getX 6#5) 8 .load 0x800FFFF8#64 ram s ∧ BytesAre s 0x800FFFF8 8 0 ∧
       Reaches s (s.getX 6#5) 8 .store 0x800FFFF8#64 ram s ∧ s.mem.wf = true ∧ s.ilrsc = some ⟨0x800FFFF8#64, 8⟩ ∧
       Reaches s (s.getX 6#5) 4 .store 0x800FFFF8#64 ram s ∧ s.ilrsc ≠ some ⟨0x800FFFF8#64, 4⟩) ∧
    (31#5 : BitVec 5) ≠ 0#5 := by
  simp only [BytesAre]
  refine ⟨⟨reaches_ram ?_ ?_ ?_, ?_, reaches_ram ?_ ?_ ?_, ?_⟩,
    ⟨reaches_ram ?_ ?_ ?_, ?_, reaches_ram ?_ ?_ ?_, ?_, ?_, reaches_ram ?_ ?_ ?_, ?_⟩, ?_⟩ <;> decide

theorem witness_AtomicOps :
    (let s := (at6 0x80001000#64).withData 0xFFFFFFFF80000005
     s.mem.wf = true ∧ Reaches s (s.getX 6#5) 4 .store 0x80001000#64 ram s ∧ BytesAre s 0x80001000 4 0x80000005) ∧
    (let s := at6 0x800FFFF8#64
     s.mem.wf = true ∧ Reaches s (s.getX 6#5) 8 .store 0x800FFFF8#64 ram s ∧ BytesAre s 0x800FFFF8 8 0) := by
  simp only [BytesAre]
  refine ⟨⟨?_, reaches_ram ?_ ?_ ?_, ?_⟩, ?_, reaches_ram ?_ ?_ ?_, ?_⟩ <;> decide

/-! ### Floating point -/

theorem witness_FloatLoadsStores :
    let s := at6 0x80100000#64
    s.fs ≠ 0#2 ∧ s.mem.wf = true ∧ Reaches s (s.effAddr 6#5 0xFFC#12) 4 .load 0x800FFFFC#64 ram s ∧ BytesAre s 0x800FFFFC 4 0 ∧
      Reaches s (s.effAddr 6#5 0xFF8#12) 8 .load 0x800FFFF8#64 ram s ∧ BytesAre s 0x800FFFF8 8 0 ∧
      Reaches s (s.effAddr 6#5 0xFFC#12) 4 .store 0x800FFFFC#64 ram s ∧
      Reaches s (s.effAddr 6#5 0xFF8#12) 8 .store 0x800FFFF8#64 ram s := by
  simp only [BytesAre]
  refine ⟨?_, ?_, reaches_ram ?_ ?_ ?_, ?_, reaches_ram ?_ ?_ ?_, ?_, reaches_ram ?_ ?_ ?_, reaches_ram ?_ ?_ ?_⟩ <;> decide

/-- A static mode, the last legal one, and a dynamic one. The same witness serves the other rounded instructions. -/
theorem witness_FloatArith :
    base.fs ≠ 0#2 ∧ base.roundingMode 0#3 = some .rne ∧ base.roundingMode 4#3 = some .rmm ∧
      { base with fcsr := 0x60#8 }.roundingMode 7#3 = some .rup := by
  decide

/-- The unit off; a reserved static mode; a reserved dynamic one. -/
theorem witness_FloatUnitEnable :
    { base with mstatus := 0#64 }.fs = 0#2 ∧ needsFp (.faddS 1#5 2#5 3#5 5#3) = true ∧
      rmOf (.faddS 1#5 2#5 3#5 5#3) = some 5#3 ∧ { base with fcsr := 0xE0#8 }.frm = 7#3 ∧
      { base with fcsr := 0xA0#8 }.frm = 5#3 := by
  decide

/-- 1 + 2^-24 rounds to 1 in single precision and up to 1 + 2^-23. -/
theorem witness_RoundingIsCorrect :
    unpack .single (roundPack .single .rne false 0x1000001 (-24)).1 = .finite false 0x800000 (-23) ∧
      unpack .single (roundPack .single .rup false 0x1000001 (-24)).1 = .finite false 0x800001 (-23) := by
  decide

/-- 2^128 overflows to infinity, and to the largest number toward zero; 2^-150 underflows. -/
theorem witness_OverflowAndUnderflow :
    unpack .single (roundPack .single .rne true 1 128).1 = .inf true ∧
      (roundPack .single .rtz true 1 128).2.getLsbD 2 = true ∧ (roundPack .single .rne false 1 (-150)).2.getLsbD 1 = true := by
  decide

/-- One number of each kind in both formats. -/
theorem witness_FloatSpecialCases :
    unpack .single 0x7F800001#64 = .nan true ∧ unpack .single 0x7FC00000#64 = .nan false ∧
      unpack .single 0xFF800000#64 = .inf true ∧ unpack .single 0x80000000#64 = .finite true 0 (-149) ∧
      unpack .single 0xBF800000#64 = .finite true 0x800000 (-23) ∧ unpack .single 0x3F800000#64 = .finite false 0x800000 (-23) ∧
      unpack .single 0x7F800000#64 = .inf false ∧ unpack .single 0x00000000#64 = .finite false 0 (-149) ∧
      unpack .double 0x7FF0000000000001#64 = .nan true ∧ unpack .double 0x7FF0000000000000#64 = .inf false ∧
      unpack .double 0x0000000000000001#64 = .finite false 1 (-1074) := by
  decide

/-- The two infinities and a number between them, in single precision; NaN operands are in `witness_FloatSpecialCases`. -/
theorem witness_ComparisonsOrderNumbers :
    (unpack .single 0xFF800000#64).extended = some ⊥ ∧
      (unpack .single 0x3F800000#64).extended = some ((signedValue false 0x800000 (-23) : WithTop ℚ) : WithBot (WithTop ℚ)) ∧
      (unpack .single 0x7F800000#64).extended = some ((⊤ : WithTop ℚ) : WithBot (WithTop ℚ)) ∧
      (⊥ : WithBot (WithTop ℚ)) < ((⊤ : WithTop ℚ) : WithBot (WithTop ℚ)) := by
  have h1 : unpack .single 0xFF800000#64 = .inf true := by decide
  have h2 : unpack .single 0x3F800000#64 = .finite false 0x800000 (-23) := by decide
  have h3 : unpack .single 0x7F800000#64 = .inf false := by decide
  rw [h1, h2, h3]
  exact ⟨rfl, rfl, rfl, WithBot.bot_lt_coe _⟩

/-- `2^64` and `-2^64` for the saturating clauses, `-1` and the largest integers for the exact ones. -/
theorem witness_FloatToIntegerRange :
    unpack .single 0x5F800000#64 = .finite false 0x800000 41 ∧ unpack .single 0xDF800000#64 = .finite true 0x800000 41 ∧
      unpack .double 0xBFF0000000000000#64 = .finite true 0x10000000000000 (-52) ∧
      unpack .double 0x41DFFFFFFFC00000#64 = .finite false 0x1FFFFFFFC00000 (-22) := by
  decide

theorem witness_FloatToIntegerRange_magnitudes :
    (2 : ℚ) ^ 64 ≤ magnitude 0x800000 41 ∧ (2 : ℚ) ^ 63 < magnitude 0x800000 41 - 1 ∧
      ((2147483647 : Int) : ℚ) = magnitude 0x1FFFFFFFC00000 (-22) := by
  unfold magnitude
  norm_num

/-- `-0.75`, the example of 45_f_single R558: 1 to nearest, 0 toward zero; and `2^31`, one above the range of W. -/
theorem witness_FloatToIntegerRange_rounding :
    unpack .single 0xBF400000#64 = .finite true 0xC00000 (-24) ∧
      RoundsTo .rne true ((magnitude 0xC00000 (-24) : ℚ) : ℝ) 1 ∧ RoundsTo .rtz true ((magnitude 0xC00000 (-24) : ℚ) : ℝ) 0 ∧
      unpack .single 0x4F000000#64 = .finite false 0x800000 8 ∧
      RoundsTo .rtz false ((magnitude 0x800000 8 : ℚ) : ℝ) 2147483648 := by
  refine ⟨by decide, ?_, ?_, by decide, ?_⟩
  · have h : ((magnitude 0xC00000 (-24) : ℚ) : ℝ) = 3 / 4 := by unfold magnitude; norm_num
    rw [h, RoundsTo]; norm_num [abs_of_neg, abs_of_pos]
  · have h : ((magnitude 0xC00000 (-24) : ℚ) : ℝ) = 3 / 4 := by unfold magnitude; norm_num
    rw [h, RoundsTo]; norm_num
  · have h : ((magnitude 0x800000 8 : ℚ) : ℝ) = ((2147483648 : ℤ) : ℝ) := by unfold magnitude; norm_num
    rw [h, RoundsTo, Int.floor_intCast]

/-- Finite operands of both formats: `1`, `-1`, a zero, the least subnormal. The same witness serves the quotients. -/
theorem witness_FloatSumsAndProducts :
    unpack .single 0x3F800000#64 = .finite false 0x800000 (-23) ∧ unpack .single 0xBF800000#64 = .finite true 0x800000 (-23) ∧
      unpack .single 0x80000000#64 = .finite true 0 (-149) ∧ unpack .double 0x0000000000000001#64 = .finite false 1 (-1074) ∧
      (0x800000 : Nat) ≠ 0 := by
  decide

/-! ### CSRs, traps, interrupts -/

/-- An allowed access of each kind of instruction, and each of the six refusals of R651. -/
theorem witness_CsrInstructions :
    base.checkCsr 0x340#12 true = some .mscratch ∧ base.checkCsr 0xC00#12 false = some .cycle ∧
      base.checkCsr 0x7C0#12 false = none ∧ { base with priv := .user }.checkCsr 0x100#12 false = none ∧
      base.checkCsr 0xC00#12 true = none ∧ { base with mstatus := 0#64 }.checkCsr 0x003#12 false = none ∧
      { base with priv := .supervisor }.checkCsr 0xC00#12 false = none ∧
      { base with priv := .supervisor, mstatus := 0x100000#64 }.checkCsr 0x180#12 false = none := by
  decide

/-- The ends of the ranges of the table of 10_state R46, and the addresses beside them. -/
theorem witness_CsrAccessRules :
    base.checkCsr 0x341#12 true = some .mepc ∧ base.checkCsr 0xC02#12 false = some .instret ∧
      (Csr.ofAddr 0xC03#12 = some .hpmcounter ∧ Csr.ofAddr 0xC1F#12 = some .hpmcounter ∧ Csr.ofAddr 0xC20#12 = none) ∧
      (Csr.ofAddr 0xB01#12 = none ∧ Csr.ofAddr 0xB03#12 = some .mhpmcounter ∧ Csr.ofAddr 0xB1F#12 = some .mhpmcounter) ∧
      (Csr.ofAddr 0x322#12 = none ∧ Csr.ofAddr 0x323#12 = some .mhpmevent ∧ Csr.ofAddr 0x33F#12 = some .mhpmevent) := by
  decide

theorem witness_StatusRegisterWrites :
    Within { base with mstatus := 0x7E79AA#64 }.mstatus mstatusMask ∧ slice 0x1000#64 11 2 = 2#2 ∧
      slice (csrWrite base .mstatus 0x20000#64).mstatus 17 3 ≠ slice base.mstatus 17 3 := by
  decide

theorem witness_CsrStorage : slice 0xA000000000000000#64 60 4 = 10#4 ∧ slice 0x7000000000000000#64 60 4 = 7#4 := by decide

theorem witness_CallsAndBreakpoints :
    base.priv = .machine ∧ { base with priv := .user, medeleg := 0x108#64 }.medeleg.getLsbD (8 + Priv.user.bits.toNat) = true ∧
      { base with priv := .supervisor }.medeleg.getLsbD 3 = false := by
  decide

/-- Into M-mode from M-mode and from U-mode, into S-mode from both lower modes, with the largest code. -/
theorem witness_TrapEntry :
    base.priv = .machine ∧ { base with priv := .user }.medeleg.getLsbD 15 = false ∧
      (let s := { base with priv := .user, medeleg := 0xB3FF#64, mideleg := 0x222#64 }
       s.priv ≠ .machine ∧ s.medeleg.getLsbD 15 = true ∧ s.mideleg.getLsbD 9 = true) ∧
      { base with priv := .supervisor, medeleg := 0xB3FF#64 }.medeleg.getLsbD 0 = true ∧ base.pc.getLsbD 0 = false := by
  decide

theorem witness_TrapReturns :
    (let s := { base with mstatus := 0x21800#64 }
     slice s.mstatus 11 2 ≠ 2#2 ∧ s.priv = .machine) ∧
    (let s := { base with priv := .supervisor, mstatus := 0x400000#64 }
     s.priv ≠ .machine ∧ s.tsr = true) ∧ { base with priv := .supervisor }.tsr = false := by
  decide

/-- Two pending interrupts, one for each destination; and none enabled. -/
theorem witness_InterruptPriority :
    (let s := { base with priv := .supervisor, mip := 0xAAA#64, mie := 0xAAA#64, mideleg := 0x222#64 }
     Within s.mip 0xAAA#64 ∧ s.pendingInterrupt = some 11) ∧
    (let s := { base with priv := .user, mip := 0x222#64, mie := 0x222#64, mideleg := 0x222#64 }
     Within s.mip 0xAAA#64 ∧ s.pendingInterrupt = some 9) ∧ base.pendingInterrupt = none := by
  decide

/-- An idle hart with nothing pending, below and at the boundary of the timer; and one with the timer pending. -/
theorem witness_TimerAndIdle :
    (let s := { base with idle := true, mtimecmp := 10#64 }
     s.hostInputs = [] ∧ s.runStatus = none ∧ s.idle = true ∧ s.sampleTimer.mip &&& s.sampleTimer.mie = 0#64 ∧
       s.sampleTimer.mip.getLsbD 7 = false ∧ s.mtimecmp.toNat * s.cfg.rtcFreqDiv < 2 ^ 64) ∧
    (let s := { base with idle := true, mie := 0x80#64 }
     s.hostInputs = [] ∧ s.runStatus = none ∧ s.idle = true ∧ s.sampleTimer.mip &&& s.sampleTimer.mie ≠ 0#64) := by
  decide

theorem witness_StoppedHartStays :
    { base with halted := true }.hostInputs = [] ∧ (∃ t, step { base with halted := true } = .next t) ∧
      { base with mcycleEnd := 5#64, mcycle := 5#64 }.mcycleEnd.toNat ≤ 5 :=
  ⟨rfl, ⟨_, rfl⟩, by decide⟩

theorem witness_CountersAdvance :
    base.hostInputs = [] ∧ base.runStatus = none ∧ base.idle = false ∧ ∃ t, step base = .next t := ⟨rfl, rfl, rfl, _, rfl⟩

/-- An instruction that retires and one that traps. -/
theorem witness_RetireOrTrap :
    (∃ t, exec (.jal 1#5 8#20) base = .next t ∧ t.minstret = base.minstret + 1#64) ∧
      ∃ t, exec .ecall base = .next t ∧ t.minstret = base.minstret :=
  ⟨⟨_, rfl, by decide⟩, _, rfl, by decide⟩

/-- A user instruction that stays in U-mode and one that leaves it. -/
theorem witness_UserModeIsConfined :
    let s := { base with priv := .user }
    s.priv = .user ∧ (∃ t, exec (.jal 1#5 8#20) s = .next t ∧ t.priv = .user) ∧ ∃ t, exec .ecall s = .next t ∧ t.priv ≠ .user :=
  ⟨rfl, ⟨_, rfl, by decide⟩, _, rfl, by decide⟩

/-! ### Construction and the host (70_reset R900, R901; 60_exceptions R881 to R885) -/

/-- A configuration with a RAM image, a flash drive, a register value and two switches. -/
def someConfig : Configuration :=
  { ramImage := [0x13#8, 0x05#8], flash := [{ start := 0x1000000, length := 0x1000, image := [7#8] }], mtvec := 0x80000100#64, consoleGetchar := true,
    yieldRollup := true, pc := 0x80000000#64 }

/-- A legal configuration, and one for each constraint that the statement names: `MPP = 2`, `satp.MODE = 1`, an odd `mepc`, a
RAM length that is no page multiple, nine drives, and a drive that overlaps ROM. -/
theorem witness_MachineConstruction :
    someConfig.legal = true ∧ someConfig.pc.getLsbD 0 = false ∧
      (slice { someConfig with mstatus := 0x1000#64 }.mstatus 11 2 = 2#2) ∧
      slice { someConfig with satp := 0x1000000000000000#64 }.satp 60 4 ∉ [0#4, 8#4, 9#4, 10#4] ∧
      { someConfig with mepc := 1#64 }.mepc.getLsbD 0 = true ∧ { someConfig with ramLength := 0x100001 }.ramLength % 4096 ≠ 0 ∧
      8 < { someConfig with flash := List.replicate 9 { start := 0, length := 0, image := [] } }.flash.length ∧
      [Config.romEntry 0x1000 0xF000 Config.romFlags, Config.flashEntry 0 0xF000 0x2000 Config.flashFlags].Sublist
        { someConfig with flash := [{ start := 0xF000, length := 0x2000, image := [] }] }.ranges ∧
      ({ someConfig with flash := [{ start := 0xF000, length := 0x2000, image := [] }] } : Configuration).legal = false := by
  decide

/-- "each flash drive with its image; every byte not covered by an image is 0" (70_reset R900), and the masks of 10_state
R121. -/
theorem test_construct_images :
    let s := someConfig.construct
    s.mem.byte 0x80000000 = 0x13#8 ∧ s.mem.byte 0x80000001 = 0x05#8 ∧ s.mem.byte 0x80000002 = 0#8 ∧ s.mem.byte 0x1000000 = 7#8 ∧
      s.cfg.iconsole = 0x3#64 ∧ s.cfg.iyield = 0x2#64 ∧ s.cfg.pma.map (·.start) = [0x1000, 0x1000000, 0x2000000, 0x40008000, 0x80000000] := by
  decide

/-- The flags of a range are parameters (20_memory R211): a drive that cannot be written, and a writable ROM. -/
theorem test_construct_flags :
    let g : PmaFlags := { Config.flashFlags with w := false }
    let c := { someConfig with romFlags := Config.ramFlags, flash := [{ start := 0x1000000, length := 0x1000, image := [], flags := g }] }
    c.legal = true ∧ (findPma c.construct.cfg.pma 0x1000000 8).map (fun e => (e.r, e.w, e.x)) = some (true, false, false) ∧
      (findPma c.construct.cfg.pma 0x1000 8).map (·.w) = some true := by
  decide

/-- Two machines that are never made: overlapping ranges, and an illegal `MPP` (70_reset R901). -/
theorem test_construct_rejects :
    Configuration.create { someConfig with flash := [{ start := 0xF000, length := 0x2000, image := [] }] } = none ∧
      Configuration.create { someConfig with mstatus := 0x1000#64 } = none := by
  decide

/-- A machine with a byte to deliver, and one whose last byte was not taken; writes in RAM and in the CLINT. -/
theorem witness_HostActions :
    (let s := { base with cfg := { base.cfg with interactive := true, iconsole := 0x3#64 }, consoleIn := [0x41#8] }
     s.cfg.interactive = true ∧ s.cfg.iconsole.getLsbD 0 = true ∧ s.fromhostPending = false ∧ s.consoleIn = 0x41#8 :: []) ∧
    { base with fromhostPending := true }.fromhostPending = true ∧
    ({ base with hostInputs := [[.resume], []] }.hostInputs = [.resume] :: [[]] ∧ base.hostInputs = []) ∧
    (findPma base.cfg.pma 0x800FFFFE 2 = some ram ∧ findPma base.cfg.pma 0x2000000 2 = some clint ∧ clint.kind ≠ .memory ∧
      base.mem.wf = true) ∧
    (Csr.ofAddr 0xB00#12 = some .mcycle ∧ Csr.ofAddr 0xB02#12 = some .minstret ∧ Csr.ofAddr 0x344#12 = some .mip ∧
      Csr.ofAddr 0x003#12 = some .fcsr ∧ Csr.ofAddr 0x340#12 = some .mscratch ∧ Csr.ofAddr 0x7C0#12 = none) := by
  decide

/-- The byte `A` arrives as `fromhost = 0x0100000000000041` (60_exceptions R882). -/
theorem test_host_console_byte :
    let s := { base with cfg := { base.cfg with interactive := true, iconsole := 0x3#64 }, consoleIn := [0x41#8] }
    (s.applyHost .deliverConsoleByte).fromhost = 0x0100000000000041#64 ∧ (s.applyHost .deliverConsoleByte).fromhostPending = true := by
  decide

/-- A host write of memory clears the reservation (60_exceptions R885). -/
theorem test_host_memory :
    let t := { base with ilrsc := some ⟨0x80000000#64, 4⟩ }.applyHost (.writeMemory 0x80001000#64 [1#8, 2#8])
    t.ilrsc = none ∧ t.mem.byte 0x80001001 = 2#8 := by
  decide

/-! ### Translation -/

/-- `MPRV` with `MPP = S` translates a load of M-mode, whose fetches stay untranslated; a TLB that can be filled. -/
theorem witness_BareAndTlb :
    (let s := { paged with priv := .machine, mstatus := 0x20800#64 }
     s.effPriv .load = .supervisor ∧ s.bare .load = false ∧ s.bare .fetch = true ∧
       ∃ s1, translate s 0x80001000#64 .load = .ok 0x80001000#64 s1 ∧
         s1.cfg.pma.findIdx? (fun e => containsRange e (0x80001000 / 4096 * 4096) 4096) = some 3) :=
  ⟨rfl, rfl, rfl, _, rfl, by decide⟩

/-- The least address that is not canonical under Sv39, and one that raises in the walk. -/
theorem witness_WalkFaults :
    paged.satpMode = 8#4 ∧ (0x4000000000#64).getLsbD 39 ≠ (0x4000000000#64).getLsbD 38 ∧
      walk paged 0x1000#64 .load .supervisor = .raised .loadPageFault 0x1000#64 paged := by
  decide

/-- A walk that sets A, one that sets A and D, and one that finds both set. -/
theorem witness_WalkResult :
    paged.mem.wf = true ∧ (∃ s1, walk paged 0x80001234#64 .load .supervisor = .ok 0x80001234#64 s1) ∧
      (∃ s1, walk paged 0x80001234#64 .store .supervisor = .ok 0x80001234#64 s1) ∧
      (let s := { paged with mem := paged.mem.store 0x80002010 8 0x200000CF }
       walk s 0x80001234#64 .fetch .supervisor = .ok 0x80001234#64 s) :=
  ⟨by decide, ⟨_, rfl⟩, ⟨_, rfl⟩, by decide⟩

/-! ### Compressed forms -/

theorem witness_CompressedImmediates : (1#5 : Reg) ≠ 0#5 ∧ (31#5 : Reg) ≠ 2#5 ∧ (0x80#8) ≠ 0#8 ∧ (0x20#6) ≠ 0#6 := by decide

theorem witness_CompressedLoadsStores :
    (let s := base.setX 8#5 0x80001000#64
     Reaches s (s.getX (cReg 0#3) + offW 0x1F#5) 4 .load 0x8000107C#64 ram s ∧ BytesAre s 0x8000107C 4 0 ∧
       Reaches s (s.getX (cReg 0#3) + offD 0x1F#5) 8 .store 0x800010F8#64 ram s ∧ s.fs ≠ 0#2 ∧ s.mem.wf = true) ∧
    (let s := base.setX 2#5 0x80001000#64
     Reaches s (s.getX spReg + offW 0x3F#6) 4 .store 0x800010FC#64 ram s ∧
       Reaches s (s.getX spReg + offD 0x3F#6) 8 .load 0x800011F8#64 ram s ∧ BytesAre s 0x800011F8 8 0) := by
  simp only [BytesAre]
  refine ⟨⟨reaches_ram ?_ ?_ ?_, ?_, reaches_ram ?_ ?_ ?_, ?_⟩, reaches_ram ?_ ?_ ?_, reaches_ram ?_ ?_ ?_, ?_⟩ <;> decide

end Sys2Proof.Tests
end

section
/-! Family 10_state: masks bit by bit, the stored and readable bits of `mstatus`, and what a CSR write stores. -/

namespace Sys2Proof.Machine

open Sys2Proof

/-! ## Words, bit by bit -/

/-- A word is known from the list of its bits that are 1; for a constant word both premises are closed facts. -/
theorem getLsbD_eq_mem {w : Word} {l : List Nat} (hl : ∀ i ∈ l, i < 64) (hw : ∀ k < 64, w.getLsbD k = decide (k ∈ l)) (k : Nat) :
    w.getLsbD k = decide (k ∈ l) := by
  by_cases hk : k < 64
  · exact hw k hk
  · have hnot : k ∉ l := fun h => hk (hl k h)
    rw [BitVec.getLsbD_of_ge w k (by omega), decide_eq_false hnot]

/-- A word that holds only bits of `mask` is 0 where the mask is 0. -/
theorem getLsbD_of_within {w mask : Word} (h : Within w mask) {k : Nat} (hk : mask.getLsbD k = false) : w.getLsbD k = false := by
  by_cases hlt : k < 64
  · have hbit := congrArg (fun u : Word => u.getLsbD k) h
    rw [BitVec.getLsbD_and, BitVec.getLsbD_not, hk, BitVec.getLsbD_zero] at hbit
    simpa only [hlt, decide_true, Bool.not_false, Bool.and_true] using hbit
  · exact BitVec.getLsbD_of_ge w k (by omega)

theorem getLsbD_mergeMask (mask old new : Word) (k : Nat) :
    (mergeMask mask old new).getLsbD k = if mask.getLsbD k then new.getLsbD k else old.getLsbD k := by
  by_cases hk : k < 64
  · simp only [mergeMask, BitVec.getLsbD_or, BitVec.getLsbD_and, BitVec.getLsbD_not, hk, decide_true, Bool.true_and]
    cases mask.getLsbD k <;> simp
  · have hge (w : Word) : w.getLsbD k = false := BitVec.getLsbD_of_ge w k (by omega)
    simp [hge]

theorem getLsbD_setField2 (w : Word) {i : Nat} (hi : i + 2 ≤ 64) (v : BitVec 2) (k : Nat) :
    (setField2 w i v).getLsbD k =
      if k = i then v.getLsbD 0 else if k = i + 1 then v.getLsbD 1 else w.getLsbD k := by
  have hthree (j : Nat) : (3#64).getLsbD j = decide (j ∈ [0, 1]) := getLsbD_eq_mem (by decide) (by decide) j
  simp only [setField2, BitVec.getLsbD_or, BitVec.getLsbD_and, BitVec.getLsbD_not, BitVec.getLsbD_shiftLeft, hthree,
    BitVec.truncate_eq_setWidth, BitVec.getLsbD_setWidth]
  rcases Nat.lt_or_ge k i with hlt | hge
  · have h0 : k ≠ i := by omega
    have h1 : k ≠ i + 1 := by omega
    have h64 : k < 64 := by omega
    simp [hlt, h0, h1, h64]
  · obtain ⟨j, rfl⟩ := Nat.exists_eq_add_of_le hge
    match j with
    | 0 => simp; omega
    | 1 => simp; omega
    | j + 2 =>
      have hv : v.getLsbD (j + 2) = false := BitVec.getLsbD_of_ge v _ (by omega)
      have hw (h : 64 ≤ i + (j + 2)) : w.getLsbD (i + (j + 2)) = false := BitVec.getLsbD_of_ge w _ h
      by_cases h64 : i + (j + 2) < 64 <;> simp_all

/-! ## The stored and the readable bits of `mstatus` (10_state R55, R70, R71) -/

theorem getLsbD_mstatusMask (k : Nat) :
    mstatusMask.getLsbD k = decide (k ∈ [1, 3, 5, 7, 8, 11, 12, 13, 14, 17, 18, 19, 20, 21, 22]) :=
  getLsbD_eq_mem (by decide) (by decide) k

theorem getLsbD_sstatusWriteMask (k : Nat) : sstatusWriteMask.getLsbD k = decide (k ∈ [1, 5, 8, 13, 14, 18, 19]) :=
  getLsbD_eq_mem (by decide) (by decide) k

theorem getLsbD_sstatusReadMask (k : Nat) :
    sstatusReadMask.getLsbD k = decide (k ∈ [1, 5, 8, 13, 14, 18, 19, 32, 33, 63]) :=
  getLsbD_eq_mem (by decide) (by decide) k

/-- Bits 33 and 35 are those of `UXL = SXL = 2`; bit 63 is `SD`, set exactly when `FS` is Dirty because no other stored bit
reaches it. -/
theorem getLsbD_mstatusRead {m : Word} (h : Within m mstatusMask) (k : Nat) :
    (mstatusRead m).getLsbD k =
      if k = 33 ∨ k = 35 then true else if k = 63 then decide (slice m 13 2 = 3#2) else m.getLsbD k := by
  have hxl : (0x0000000A00000000#64).getLsbD k = decide (k ∈ [33, 35]) := getLsbD_eq_mem (by decide) (by decide) k
  have hsd : (0x8000000000000000#64).getLsbD k = decide (k ∈ [63]) := getLsbD_eq_mem (by decide) (by decide) k
  rw [mstatusRead, BitVec.getLsbD_or, BitVec.getLsbD_or, hxl, apply_ite (fun w : Word => w.getLsbD k), hsd, BitVec.getLsbD_zero]
  by_cases hk : k = 63
  · subst hk
    rw [getLsbD_of_within h rfl]
    simp
  · simp [hk, Bool.or_comm]

/-! ## Writes of `mstatus` and `sstatus` (10_state R55, R70) -/

theorem withMstatus_only (s : State) (m : Word) :
    s.withMstatus m =
      { s with mstatus := m, tlbRead := (s.withMstatus m).tlbRead, tlbWrite := (s.withMstatus m).tlbWrite,
               tlbCode := (s.withMstatus m).tlbCode } := by
  unfold State.withMstatus; split <;> rfl

/-- A change of `MPRV`, `SUM`, `MXR` or `MPP` empties the TLBs (20_memory R262). -/
theorem withMstatus_flushes {s : State} {m : Word} (h : slice m 17 3 ≠ slice s.mstatus 17 3 ∨ slice m 11 2 ≠ slice s.mstatus 11 2) :
    (s.withMstatus m).tlbRead = [] ∧ (s.withMstatus m).tlbWrite = [] ∧ (s.withMstatus m).tlbCode = [] := by
  rw [State.withMstatus, if_neg (not_and_or.2 h)]
  exact ⟨rfl, rfl, rfl⟩

/-- What both writes leave alone, and when they empty the TLBs. -/
theorem withMstatus_frame (s : State) (m : Word) :
    let w := s.withMstatus m
    w = { s with mstatus := w.mstatus, tlbRead := w.tlbRead, tlbWrite := w.tlbWrite, tlbCode := w.tlbCode } ∧
      (slice w.mstatus 17 3 ≠ slice s.mstatus 17 3 ∨ slice w.mstatus 11 2 ≠ slice s.mstatus 11 2 →
        w.tlbRead = [] ∧ w.tlbWrite = [] ∧ w.tlbCode = []) := by
  simp only [withMstatus_mstatus]
  exact ⟨withMstatus_only s m, withMstatus_flushes⟩

/-- The word that a write of `mstatus` stores: bit by bit the written one under `W`, but for an `MPP` of 2. -/
theorem getLsbD_csrWrite_mstatus (s : State) (v : Word) (k : Nat) :
    (csrWrite s .mstatus v).mstatus.getLsbD k =
      if k ∈ [11, 12] then (if slice v 11 2 = 2#2 then s.mstatus.getLsbD k else v.getLsbD k)
      else if k ∈ [1, 3, 5, 7, 8, 13, 14, 17, 18, 19, 20, 21, 22] then v.getLsbD k else s.mstatus.getLsbD k := by
  have hfield : (mergeMask mstatusMask s.mstatus v).getLsbD k =
      if k ∈ [11, 12] ∨ k ∈ [1, 3, 5, 7, 8, 13, 14, 17, 18, 19, 20, 21, 22] then v.getLsbD k else s.mstatus.getLsbD k := by
    simp only [getLsbD_mergeMask, getLsbD_mstatusMask, decide_eq_true_eq]
    exact if_congr (by simp only [List.mem_cons, List.not_mem_nil, or_false]; omega) rfl rfl
  rw [csrWrite, State.writeMstatus, withMstatus_mstatus]
  split
  · rw [getLsbD_setField2 _ (by decide), hfield]
    by_cases h11 : k = 11
    · subst h11; simp
    · by_cases h12 : k = 12
      · subst h12; simp
      · simp [h11, h12]
  · rw [hfield]
    by_cases hk : k ∈ [11, 12] <;> simp only [hk, true_or, false_or, if_true, if_false]

theorem getLsbD_csrWrite_sstatus (s : State) (v : Word) (k : Nat) :
    (csrWrite s .sstatus v).mstatus.getLsbD k =
      if k ∈ [1, 5, 8, 13, 14, 18, 19] then v.getLsbD k else s.mstatus.getLsbD k := by
  rw [csrWrite, withMstatus_mstatus, getLsbD_mergeMask, getLsbD_sstatusWriteMask]
  simp only [decide_eq_true_eq]

/-- `sstatus` shows `UXL`, `SD` and seven stored bits; of the two bits of `UXL`, bit 32 is 0 because it is never stored. -/
theorem getLsbD_csrRead_sstatus {s : State} (h : Within s.mstatus mstatusMask) (k : Nat) :
    (csrRead s .sstatus).getLsbD k =
      if k = 33 then true else if k = 63 then decide (s.fs = 3#2)
      else if k ∈ [1, 5, 8, 13, 14, 18, 19] then s.mstatus.getLsbD k else false := by
  have h32 : s.mstatus.getLsbD 32 = false := getLsbD_of_within h rfl
  rw [csrRead, BitVec.getLsbD_and, getLsbD_mstatusRead h, getLsbD_sstatusReadMask, State.fs]
  by_cases hk : k ∈ [32, 33, 35, 63]
  · simp only [List.mem_cons, List.not_mem_nil, or_false] at hk
    rcases hk with rfl | rfl | rfl | rfl
    · simp [h32, -BitVec.getLsbD_eq_getElem]
    all_goals simp
  · simp only [List.mem_cons, List.not_mem_nil, or_false, not_or] at hk
    obtain ⟨k32, k33, k35, k63⟩ := hk
    by_cases hm : k ∈ [1, 5, 8, 13, 14, 18, 19] <;> simp_all

/-- Settles O42: each register is a lemma of its own, and both writes are writes of the stored word. -/
theorem statusRegisterWrites : Obligations.StatusRegisterWrites := by
  intro s v hin
  refine ⟨getLsbD_csrWrite_mstatus s v, getLsbD_csrWrite_sstatus s v, ?_, getLsbD_mstatusRead hin, getLsbD_csrRead_sstatus hin⟩
  rintro w (rfl | rfl)
  · exact withMstatus_frame s _
  · exact withMstatus_frame s _

/-! ## What the other CSRs store (10_state R64, sections 5.2 to 5.7) -/

theorem csrWrite_satp_legal (s : State) {v : Word}
    (h : slice v 60 4 = 0#4 ∨ slice v 60 4 = 8#4 ∨ slice v 60 4 = 9#4 ∨ slice v 60 4 = 10#4) :
    csrWrite s .satp v = { s.flushTlbs with satp := slice v 60 4 ++ 0#16 ++ slice v 0 44 } := if_pos h

theorem csrWrite_satp_ignored (s : State) {v : Word}
    (h : ¬(slice v 60 4 = 0#4 ∨ slice v 60 4 = 8#4 ∨ slice v 60 4 = 9#4 ∨ slice v 60 4 = 10#4)) :
    csrWrite s .satp v = s := if_neg h

/-- Settles O43: only `satp` has a case split; the write rule of every other CSR stores one masked word. -/
theorem csrStorage : Obligations.CsrStorage := by
  constructor
  · intro s v
    refine ⟨csrWrite_satp_legal s, fun h0 h8 h9 h10 => csrWrite_satp_ignored s ?_, rfl⟩
    rintro (h | h | h | h)
    exacts [h0 h, h8 h, h9 h, h10 h]
  · intro s v
    have hfcsr : csrRead s .fflags = (slice s.fcsr 0 5).setWidth 64 ∧ csrRead s .frm = (slice s.fcsr 5 3).setWidth 64 ∧
        csrRead s .fcsr = s.fcsr.setWidth 64 := ⟨rfl, rfl, rfl⟩
    refine ⟨rfl, rfl, rfl, hfcsr, ?sie, ?sip, ?mip, ?mie, ?medeleg, ?mideleg, ?tvec, ?epc, ?cause, ?tval, ?scratch, ?counteren,
      ?ignored, ?reads⟩
    case sie | sip | mip | mie | medeleg | mideleg => exact ⟨rfl, rfl⟩
    case tvec | epc | cause | tval | scratch | counteren => exact ⟨rfl, rfl, rfl, rfl⟩
    case ignored => exact ⟨rfl, rfl, rfl, rfl, rfl⟩
    case reads => exact ⟨rfl, rfl, rfl, rfl, rfl, rfl, rfl, rfl, rfl, rfl, rfl, rfl, rfl⟩

end Sys2Proof.Machine
end

section
/-! Family 10_state: the reset values, and the machine that a configuration constructs (10_state R120, R121; 70_reset R900, R901). -/

namespace Sys2Proof.Machine

open Sys2Proof

/-! ## The map: its ranges, sorted and disjoint -/

theorem Configuration.pma_perm (c : Configuration) : c.pma.Perm c.ranges := by
  rw [Configuration.pma]
  induction c.ranges with
  | nil => exact .refl _
  | cons e rest ih => exact (insertPma_perm e _).trans (ih.cons e)

theorem Configuration.pma_sorted (c : Configuration) : c.pma.Pairwise fun a b => a.start ≤ b.start := by
  rw [Configuration.pma]
  induction c.ranges with
  | nil => exact .nil
  | cons e rest ih => exact insertPma_sorted e ih

/-- The check of the map, read as a statement: what it compares are neighbours, and the bound carries the rest. -/
theorem pairwise_of_disjointFrom {l : List PmaEntry} : ∀ {lo : Nat}, disjointFrom lo l = true →
    (∀ e ∈ l, lo ≤ e.start) ∧ l.Pairwise fun a b => a.start + a.length ≤ b.start := by
  induction l with
  | nil => exact fun _ => ⟨by simp, .nil⟩
  | cons e rest ih =>
    intro lo h
    rw [disjointFrom, Bool.and_eq_true, decide_eq_true_eq] at h
    obtain ⟨hlo, hrest⟩ := h
    obtain ⟨hbound, hpair⟩ := ih hrest
    refine ⟨fun a ha => ?_, List.pairwise_cons.2 ⟨hbound, hpair⟩⟩
    rcases List.mem_cons.1 ha with rfl | ha
    · exact hlo
    · exact (hlo.trans (Nat.le_add_right _ _)).trans (hbound a ha)

/-- What a legal map satisfies (70_reset R901). -/
theorem Configuration.legalMap_iff (c : Configuration) : c.legalMap = true ↔
    c.flash.length ≤ 8 ∧ (∀ e ∈ c.pma, e.start % 4096 = 0 ∧ e.length % 4096 = 0) ∧ disjointFrom 0 c.pma = true ∧
      c.romImage.length ≤ c.romLength ∧ c.ramImage.length ≤ c.ramLength ∧ ∀ d ∈ c.flash, d.image.length ≤ d.length := by
  simp only [Configuration.legalMap, Bool.and_eq_true, decide_eq_true_eq, List.all_eq_true, beq_iff_eq, and_assoc]

theorem Configuration.legal_iff (c : Configuration) : c.legal = true ↔ c.legalMap = true ∧ c.legalRegisters = true := by
  rw [Configuration.legal, Bool.and_eq_true]

theorem Configuration.pma_disjoint {c : Configuration} (h : c.legal = true) :
    c.pma.Pairwise fun a b => a.start + a.length ≤ b.start := by
  obtain ⟨-, -, hdisjoint, -⟩ := c.legalMap_iff.1 (c.legal_iff.1 h).1
  exact (pairwise_of_disjointFrom hdisjoint).2

/-- Two extents, each a start and a length, with no address in common. -/
def Apart (p q : Nat × Nat) : Prop := p.1 + p.2 ≤ q.1 ∨ q.1 + q.2 ≤ p.1

theorem Apart.symm {p q : Nat × Nat} (h : Apart p q) : Apart q p := Or.symm h

/-- The addresses of a range of the map. -/
def pmaExtent (e : PmaEntry) : Nat × Nat := (e.start, e.length)

/-- The addresses of a drive. -/
def driveExtent (d : FlashDrive) : Nat × Nat := (d.start, d.length)

theorem flashEntries_extents (l : List FlashDrive) : ∀ k, (flashEntries k l).map pmaExtent = l.map driveExtent := by
  induction l with
  | nil => exact fun _ => rfl
  | cons d l ih => exact fun k => congrArg (driveExtent d :: ·) (ih (k + 1))

/-- Sorting does not matter to disjointness, so the ranges of a legal configuration are disjoint as they stand. -/
theorem Configuration.ranges_apart {c : Configuration} (h : c.legal = true) :
    c.ranges.Pairwise fun a b => Apart (pmaExtent a) (pmaExtent b) :=
  c.pma_perm.pairwise ((Configuration.pma_disjoint h).imp Or.inl) Apart.symm

/-! ## The images in memory -/

/-- Everything with an image: ROM and RAM as if they were drives, then the flash drives. -/
def Configuration.images (c : Configuration) : List FlashDrive :=
  ⟨c.romStart, c.romLength, c.romImage, c.romFlags⟩ :: ⟨c.ramStart, c.ramLength, c.ramImage, c.ramFlags⟩ :: c.flash

/-- Stores each image from the first byte of its range, the first of the list first. -/
def Memory.storeImages (m : Memory) (l : List FlashDrive) : Memory := l.foldl (fun m d => m.storeBytes d.start d.image) m

theorem Configuration.memory_eq_storeImages (c : Configuration) : c.memory = Memory.storeImages [] c.images := rfl

@[simp] theorem Memory.storeImages_nil (m : Memory) : m.storeImages [] = m := rfl

@[simp] theorem Memory.storeImages_cons (m : Memory) (d : FlashDrive) (l : List FlashDrive) :
    m.storeImages (d :: l) = (m.storeBytes d.start d.image).storeImages l := rfl

theorem Configuration.images_apart {c : Configuration} (h : c.legal = true) :
    c.images.Pairwise fun a b => Apart (driveExtent a) (driveExtent b) := by
  have hranges : (c.ranges.map pmaExtent).Pairwise Apart := List.pairwise_map.2 (Configuration.ranges_apart h)
  have hsub : (c.images.map driveExtent).Sublist (c.ranges.map pmaExtent) := by
    simp only [Configuration.ranges, List.map_cons, flashEntries_extents]
    exact (((List.Sublist.refl _).cons_cons _).cons _ |>.cons _).cons_cons _
  exact List.pairwise_map.1 (hranges.sublist hsub)

theorem Configuration.images_fit {c : Configuration} (h : c.legal = true) : ∀ d ∈ c.images, d.image.length ≤ d.length := by
  obtain ⟨-, -, -, hrom, hram, hflash⟩ := c.legalMap_iff.1 (c.legal_iff.1 h).1
  exact List.forall_mem_cons.2 ⟨hrom, List.forall_mem_cons.2 ⟨hram, hflash⟩⟩

/-- A byte that no image covers is left as it was. -/
theorem Memory.byte_storeImages_outside {l : List FlashDrive} : ∀ {m : Memory}, m.wf = true → ∀ {a : Nat},
    (∀ d ∈ l, a < d.start ∨ d.start + d.image.length ≤ a) →
      (m.storeImages l).byte a = m.byte a := by
  induction l with
  | nil => exact fun _ _ _ => rfl
  | cons d l ih =>
    intro m hm a ha
    obtain ⟨hd, hl⟩ := List.forall_mem_cons.1 ha
    rw [Memory.storeImages_cons, ih (Memory.storeBytes_wf hm _ _) hl, Memory.byte_storeBytes hm, if_neg (by omega)]

/-- A byte of an image stands in memory: the images stored later lie elsewhere. -/
theorem Memory.byte_storeImages_inside {l : List FlashDrive} : ∀ {m : Memory}, m.wf = true →
    (l.Pairwise fun a b => Apart (driveExtent a) (driveExtent b)) → (∀ d ∈ l, d.image.length ≤ d.length) →
      ∀ d ∈ l, ∀ (k : Nat) (b : Byte), d.image[k]? = some b →
        (m.storeImages l).byte (d.start + k) = b := by
  induction l with
  | nil => exact fun _ _ _ _ hd => absurd hd List.not_mem_nil
  | cons e l ih =>
    intro m hm hpair hfit d hd k b hb
    obtain ⟨hapart, hpair⟩ := List.pairwise_cons.1 hpair
    obtain ⟨hfite, hfitl⟩ := List.forall_mem_cons.1 hfit
    rw [Memory.storeImages_cons]
    rcases List.mem_cons.1 hd with rfl | hd
    · obtain ⟨hk, -⟩ := List.getElem?_eq_some_iff.1 hb
      have hlater : ∀ d' ∈ l, d.start + k < d'.start ∨ d'.start + d'.image.length ≤ d.start + k := by
        intro d' hd'
        have hfit' := hfitl d' hd'
        rcases hapart d' hd' with h | h <;> simp only [driveExtent] at h <;> omega
      rw [Memory.byte_storeImages_outside (Memory.storeBytes_wf hm _ _) hlater, Memory.byte_storeBytes hm, if_pos (by omega),
        Nat.add_sub_cancel_left, List.getD_eq_getElem?_getD, hb, Option.getD_some]
    · exact ih (Memory.storeBytes_wf hm _ _) hpair hfitl d hd k b hb

theorem Configuration.memory_byte_image {c : Configuration} (h : c.legal = true) :
    ∀ d ∈ c.images, ∀ (k : Nat) (b : Byte), d.image[k]? = some b → c.memory.byte (d.start + k) = b := by
  rw [c.memory_eq_storeImages]
  exact Memory.byte_storeImages_inside rfl (Configuration.images_apart h) (Configuration.images_fit h)

theorem Configuration.memory_byte_zero (c : Configuration) {a : Nat}
    (h : ∀ d ∈ c.images, a < d.start ∨ d.start + d.image.length ≤ a) : c.memory.byte a = 0#8 := by
  rw [c.memory_eq_storeImages, Memory.byte_storeImages_outside rfl h]
  rfl

/-! ## The registers -/

/-- What the registers of a legal configuration satisfy (70_reset R901). -/
theorem Configuration.legalRegisters_iff (c : Configuration) : c.legalRegisters = true ↔
    c.x[0] = 0#64 ∧ Within c.mstatus mstatusMask ∧ slice c.mstatus 11 2 ≠ 2#2 ∧
      Within c.mepc (~~~1#64) ∧ Within c.sepc (~~~1#64) ∧ Within c.mtvec (~~~2#64) ∧ Within c.stvec (~~~2#64) ∧
      Within c.medeleg 0xB3FF#64 ∧ Within c.mideleg 0x222#64 ∧ Within c.mie 0xAAA#64 ∧ Within c.mip 0xAAA#64 ∧
      Within c.mcounteren 7#64 ∧ Within c.scounteren 7#64 ∧ slice c.satp 44 16 = 0#16 ∧
      slice c.satp 60 4 ∈ [0#4, 8#4, 9#4, 10#4] ∧ c.rtcFreqDiv ≠ 0 := by
  simp only [Configuration.legalRegisters, fits, Bool.and_eq_true, beq_iff_eq, bne_iff_ne, List.contains_iff_mem, and_assoc]

/-- A legal configuration with an even `pc` gives a machine in the invariant. -/
theorem Configuration.construct_inv {c : Configuration} (h : c.legal = true) (hpc : c.pc.getLsbD 0 = false) : c.construct.Inv := by
  obtain ⟨-, mstatus, mpp, mepc, sepc, mtvec, stvec, medeleg, mideleg, mie, mip, mcounteren, scounteren, asid, mode, -⟩ :=
    c.legalRegisters_iff.1 (c.legal_iff.1 h).2
  simp only [List.mem_cons, List.not_mem_nil, or_false] at mode
  exact {
    mem := c.memory_wf, pc := hpc, mstatus, mpp
    mepc := getLsbD_of_within mepc rfl, sepc := getLsbD_of_within sepc rfl
    mtvec := getLsbD_of_within mtvec rfl, stvec := getLsbD_of_within stvec rfl
    medeleg, mideleg, mie, mip, mcounteren, scounteren
    satpMode := mode, satpAsid := asid
    ilrsc := fun _ hr => nomatch hr
    tlbRead := rfl, tlbWrite := rfl, tlbCode := rfl }

/-- Each constraint that R901 names is one of `legal`. -/
theorem Configuration.not_illegal {c : Configuration} (h : c.legal = true) :
    ¬(slice c.mstatus 11 2 = 2#2 ∨ slice c.satp 60 4 ∉ [0#4, 8#4, 9#4, 10#4] ∨ c.mepc.getLsbD 0 = true ∨
      c.ramLength % 4096 ≠ 0 ∨ 8 < c.flash.length ∨
      ∃ a b, [a, b].Sublist c.ranges ∧ a.start < b.start + b.length ∧ b.start < a.start + a.length) := by
  obtain ⟨hdrives, hpages, -⟩ := c.legalMap_iff.1 (c.legal_iff.1 h).1
  obtain ⟨-, -, hmpp, hmepc, -, -, -, -, -, -, -, -, -, -, hmode, -⟩ := c.legalRegisters_iff.1 (c.legal_iff.1 h).2
  rintro (mpp | mode | mepc | ram | drives | ⟨a, b, hsub, hab, hba⟩)
  · exact hmpp mpp
  · exact mode hmode
  · exact Bool.false_ne_true ((getLsbD_of_within hmepc rfl).symm.trans mepc)
  · have hram : Config.ramEntry c.ramStart c.ramLength c.ramFlags ∈ c.pma :=
      c.pma_perm.mem_iff.2 (by simp [Configuration.ranges])
    exact ram (hpages _ hram).2
  · omega
  · have hapart := List.pairwise_pair.1 ((Configuration.ranges_apart h).sublist hsub)
    rcases hapart with h | h <;> simp only [pmaExtent] at h <;> omega

/-! ## Reset -/

/-- The configuration that supplies nothing is accepted, and its machine is the reset state. -/
theorem Configuration.legal_default : Configuration.default.legal = true := by decide

theorem Configuration.construct_default : Configuration.default.construct = State.reset := rfl

theorem getX_reset (r : Reg) : State.reset.getX r = 0#64 := by
  simp [State.getX, State.reset]

theorem getF_reset (r : Reg) : State.reset.getF r = 0#64 := by
  simp [State.getF, State.reset]

/-- No entry of a TLB is valid in a constructed machine. -/
theorem Configuration.construct_tlb (c : Configuration) (acc : Access) (i : Nat) : (c.construct.tlb acc).at i = none := by
  cases acc <;> rfl

/-- Settles O1: the register files, the TLBs and memory by their lemmas, every other value as it stands in the table. -/
theorem resetState : Obligations.ResetState := by
  have hmstatus : csrRead State.reset .mstatus = 0x0000000A00000000#64 := by decide
  exact ⟨getX_reset, getF_reset, rfl, rfl, rfl, rfl, rfl, hmstatus,
    rfl, rfl, rfl, rfl, rfl,
    rfl, rfl, rfl, rfl, rfl, rfl, rfl, rfl, rfl, rfl,
    rfl, rfl, rfl, rfl, rfl, rfl, rfl,
    rfl, rfl, rfl, rfl, rfl, rfl, rfl, rfl, rfl, rfl, rfl, rfl, rfl,
    Configuration.default.construct_tlb, fun _ => rfl, rfl⟩

/-- Settles O3: the reset state is the machine of the default configuration, which is legal and starts at an even `pc`. -/
theorem resetInv : Obligations.ResetInv := by
  have hinv := Configuration.construct_inv Configuration.legal_default rfl
  rwa [Configuration.construct_default] at hinv

/-! ## Construction -/

/-- The HTIF masks follow the switches (10_state R121). -/
theorem Configuration.iconsole_bits (c : Configuration) (k : Nat) :
    c.parameters.iconsole.getLsbD k = (decide (k = 1) || (decide (k = 0) && c.consoleGetchar)) := by
  have hon : (0x3#64).getLsbD k = decide (k ∈ [0, 1]) := getLsbD_eq_mem (by decide) (by decide) k
  have hoff : (0x2#64).getLsbD k = decide (k ∈ [1]) := getLsbD_eq_mem (by decide) (by decide) k
  rw [Configuration.parameters, apply_ite (fun w : Word => w.getLsbD k), hon, hoff]
  cases c.consoleGetchar <;> simp [Bool.or_comm]

theorem Configuration.iyield_bits (c : Configuration) (k : Nat) :
    c.parameters.iyield.getLsbD k = ((decide (k = 0) && c.yieldProgress) || (decide (k = 1) && c.yieldRollup)) := by
  have hprogress : (0x1#64).getLsbD k = decide (k ∈ [0]) := getLsbD_eq_mem (by decide) (by decide) k
  have hrollup : (0x2#64).getLsbD k = decide (k ∈ [1]) := getLsbD_eq_mem (by decide) (by decide) k
  simp only [Configuration.parameters, BitVec.getLsbD_or, apply_ite (fun w : Word => w.getLsbD k), hprogress, hrollup,
    BitVec.getLsbD_zero]
  cases c.yieldProgress <;> cases c.yieldRollup <;> simp

theorem Configuration.create_eq_none {c : Configuration} : c.create = none ↔ c.legal = false := by
  rw [Configuration.create, ite_eq_right_iff]
  simp

/-- Settles O2: acceptance and rejection, the registers, the parameters, the map and the images, each by its lemma. -/
theorem machineConstruction : Obligations.MachineConstruction := by
  refine ⟨⟨Configuration.construct_default,
    Configuration.create_eq_some.2 ⟨Configuration.legal_default, Configuration.construct_default.symm⟩⟩, fun c => ?_⟩
  refine ⟨⟨fun h => ⟨Configuration.create_eq_some.2 ⟨h, rfl⟩, Configuration.construct_inv h⟩, Configuration.create_eq_none.2⟩,
    ?rejected, ⟨c.construct_tlb, rfl, rfl, rfl, rfl⟩, ⟨c.iconsole_bits, c.iyield_bits, rfl⟩, ⟨rfl, fun k => ?flash⟩,
    ⟨c.pma_perm, c.pma_sorted, Configuration.pma_disjoint⟩, fun h => ?images, fun a hrom hram hflash => ?zero⟩
  case rejected =>
    exact fun hbad => Configuration.create_eq_none.2 (Bool.eq_false_iff.2 fun h => Configuration.not_illegal h hbad)
  case flash =>
    have hentry := flashEntries_getElem? c.flash 0 k
    rwa [Nat.zero_add] at hentry
  case images =>
    obtain ⟨hrom, himages⟩ := List.forall_mem_cons.1 (Configuration.memory_byte_image h)
    obtain ⟨hram, hflash⟩ := List.forall_mem_cons.1 himages
    exact ⟨hrom, hram, hflash⟩
  case zero =>
    exact c.memory_byte_zero (List.forall_mem_cons.2 ⟨hrom, List.forall_mem_cons.2 ⟨hram, hflash⟩⟩)

end Sys2Proof.Machine
end

section
/-! Family 20_memory: the decoder undoes the encoder, on words and on the bytes in memory (20_memory R221; 30_encoding sections 1
to 3). -/

namespace Sys2Proof.Machine

open Sys2Proof

/-! ## Decoding each format goes by its fields -/

@[simp] theorem decode_encode_r (op : BitVec 7) (f3 : BitVec 3) (f7 : BitVec 7) (rd rs1 rs2 : Reg) :
    decode (Encode.r op f3 f7 rd rs1 rs2) = Decode.word32 ⟨f7, rs2, rs1, f3, rd, op⟩ := decode_toWord _

@[simp] theorem decode_encode_i (op : BitVec 7) (f3 : BitVec 3) (rd rs1 : Reg) (imm : BitVec 12) :
    decode (Encode.i op f3 rd rs1 imm) = Decode.word32 ⟨slice imm 5 7, slice imm 0 5, rs1, f3, rd, op⟩ := decode_toWord _

@[simp] theorem decode_encode_s (op : BitVec 7) (f3 : BitVec 3) (rs1 rs2 : Reg) (imm : BitVec 12) :
    decode (Encode.s op f3 rs1 rs2 imm) = Decode.word32 ⟨slice imm 5 7, rs2, rs1, f3, slice imm 0 5, op⟩ := decode_toWord _

@[simp] theorem decode_encode_b (op : BitVec 7) (f3 : BitVec 3) (rs1 rs2 : Reg) (imm : BitVec 12) :
    decode (Encode.b op f3 rs1 rs2 imm) =
      Decode.word32 ⟨slice imm 11 1 ++ slice imm 4 6, rs2, rs1, f3, slice imm 0 4 ++ slice imm 10 1, op⟩ := decode_toWord _

@[simp] theorem decode_encode_u (op : BitVec 7) (rd : Reg) (imm : BitVec 20) :
    decode (Encode.u op rd imm) = Decode.word32 ⟨slice imm 13 7, slice imm 8 5, slice imm 3 5, slice imm 0 3, rd, op⟩ :=
  decode_toWord _

@[simp] theorem decode_encode_j (op : BitVec 7) (rd : Reg) (imm : BitVec 20) :
    decode (Encode.j op rd imm) =
      Decode.word32
        ⟨slice imm 19 1 ++ slice imm 4 6, slice imm 0 4 ++ slice imm 10 1, slice imm 14 5, slice imm 11 3, rd, op⟩ :=
  decode_toWord _

@[simp] theorem decode_encode_shift6 (op : BitVec 7) (f3 : BitVec 3) (f6 : BitVec 6) (rd rs1 : Reg) (sh : BitVec 6) :
    decode (Encode.shift6 op f3 f6 rd rs1 sh) = Decode.word32 ⟨f6 ++ slice sh 5 1, slice sh 0 5, rs1, f3, rd, op⟩ :=
  decode_toWord _

@[simp] theorem decode_encode_amo (f3 : BitVec 3) (f5 : BitVec 5) (rd rs1 rs2 : Reg) (aq rl : BitVec 1) :
    decode (Encode.amo f3 f5 rd rs1 rs2 aq rl) = Decode.word32 ⟨f5 ++ aq ++ rl, rs2, rs1, f3, rd, 0x2f#7⟩ := decode_toWord _

@[simp] theorem decode_encode_r4 (op : BitVec 7) (fmt : BitVec 2) (rd rs1 rs2 rs3 : Reg) (rm : RmField) :
    decode (Encode.r4 op fmt rd rs1 rs2 rs3 rm) = Decode.word32 ⟨rs3 ++ fmt, rs2, rs1, rm, rd, op⟩ := decode_toWord _

@[simp] theorem decode_encode_c (op : BitVec 2) (f3 : BitVec 3) (b12 : BitVec 1) (b11 : BitVec 2) (r9 : BitVec 3)
    (b6 : BitVec 2) (r4 : BitVec 3) :
    decode (Encode.c op f3 b12 b11 r9 b6 r4) = Decode.word16 ⟨f3, b12, b11, r9, b6, r4, op⟩ := decode_toHalf _

@[simp] theorem decode_encode_ci (op : BitVec 2) (f3 : BitVec 3) (rd : Reg) (imm : BitVec 6) :
    decode (Encode.ci op f3 rd imm) =
      Decode.word16 ⟨f3, slice imm 5 1, slice rd 3 2, slice rd 0 3, slice imm 3 2, slice imm 0 3, op⟩ := decode_toHalf _

@[simp] theorem decode_encode_cr (b12 : BitVec 1) (rd rs2 : Reg) :
    decode (Encode.cr b12 rd rs2) =
      Decode.word16 ⟨4#3, b12, slice rd 3 2, slice rd 0 3, slice rs2 3 2, slice rs2 0 3, 2#2⟩ := decode_toHalf _

@[simp] theorem decode_encode_clD (f3 : BitVec 3) (r4 r9 : CReg) (imm : BitVec 5) :
    decode (Encode.clD f3 r4 r9 imm) = Decode.word16 ⟨f3, slice imm 2 1, slice imm 0 2, r9, slice imm 3 2, r4, 0#2⟩ :=
  decode_toHalf _

@[simp] theorem decode_encode_clW (f3 : BitVec 3) (r4 r9 : CReg) (imm : BitVec 5) :
    decode (Encode.clW f3 r4 r9 imm) =
      Decode.word16 ⟨f3, slice imm 3 1, slice imm 1 2, r9, slice imm 0 1 ++ slice imm 4 1, r4, 0#2⟩ := decode_toHalf _

@[simp] theorem decode_encode_cb (f3 : BitVec 3) (rs1 : CReg) (imm : BitVec 8) :
    decode (Encode.cb f3 rs1 imm) =
      Decode.word16 ⟨f3, slice imm 7 1, slice imm 2 2, rs1, slice imm 5 2, slice imm 0 2 ++ slice imm 4 1, 1#2⟩ :=
  decode_toHalf _

@[simp] theorem decode_encode_cbAlu (b11 : BitVec 2) (rd : CReg) (imm : BitVec 6) :
    decode (Encode.cbAlu b11 rd imm) =
      Decode.word16 ⟨4#3, slice imm 5 1, b11, rd, slice imm 3 2, slice imm 0 3, 1#2⟩ := decode_toHalf _

@[simp] theorem decode_encode_ca (b12 : BitVec 1) (b6 : BitVec 2) (rd rs2 : CReg) :
    decode (Encode.ca b12 b6 rd rs2) = Decode.word16 ⟨4#3, b12, 3#2, rd, b6, rs2, 1#2⟩ := decode_toHalf _

@[simp] theorem decode_encode_ldsp (f3 : BitVec 3) (rd : Reg) (imm : BitVec 6) :
    decode (Encode.ldsp f3 rd imm) =
      Decode.word16 ⟨f3, slice imm 2 1, slice rd 3 2, slice rd 0 3, slice imm 0 2, slice imm 3 3, 2#2⟩ := decode_toHalf _

@[simp] theorem decode_encode_sdsp (f3 : BitVec 3) (rs2 : Reg) (imm : BitVec 6) :
    decode (Encode.sdsp f3 rs2 imm) =
      Decode.word16 ⟨f3, slice imm 2 1, slice imm 0 2, slice imm 3 3, slice rs2 3 2, slice rs2 0 3, 2#2⟩ := decode_toHalf _

/-- Three fields of `FENCE` in the place of an I-format immediate. -/
theorem fence_fields (fm pred succ : BitVec 4) :
    slice (slice (fm ++ pred ++ succ) 5 7) 3 4 = fm ∧
      slice (slice (fm ++ pred ++ succ) 5 7) 0 3 ++ slice (slice (fm ++ pred ++ succ) 0 5) 4 1 = pred ∧
      slice (slice (fm ++ pred ++ succ) 0 5) 0 4 = succ := by
  refine ⟨?_, ?_, ?_⟩ <;>
    · apply BitVec.eq_of_getLsbD_eq
      intro k hk
      simp only [slice, BitVec.getLsbD_append, BitVec.getLsbD_extractLsb']
      interval_cases k <;> simp

/-- A row whose constraints hold is not reserved. -/
theorem constrained_of_wf {i : Instr} (h : i.WF) : Decode.constrained i = some i := if_pos h

/-- Decoding undoes encoding: the cases stand by the part of the decoder that their opcode selects. -/
theorem decode_encode {i : Instr} (h : i.WF) : decode (encode i) = some i := by
  cases i
  case lui | auipc | jal => simp [encode, Decode.word32]
  case lb | lh | lw | lbu | lhu | lwu | ld => simp [encode, Decode.word32, Decode.load]
  case sb | sh | sw | sd => simp [encode, Decode.word32, Decode.store]
  case beq | bne | blt | bge | bltu | bgeu => simp [encode, Decode.word32, Decode.branch]
  case jalr => simp [encode, Decode.word32, Decode.jalr]
  case fence fm pred succ rs1 rd =>
    obtain ⟨hfm, hpred, hsucc⟩ := fence_fields fm pred succ
    simp only [encode, decode_encode_i, Decode.word32, Decode.miscMem, hfm, hpred, hsucc]
  case fenceI => simp [encode, Decode.word32, Decode.miscMem]
  case addi | slti | sltiu | xori | ori | andi | slli | srli | srai => simp [encode, Decode.word32, Decode.opImm]
  case addiw | slliw | srliw | sraiw => simp [encode, Decode.word32, Decode.opImm32]
  case add | sub | sll | slt | sltu | xor | srl | sra | or | and | mul | mulh | mulhsu | mulhu | div | divu | rem | remu =>
    simp [encode, Decode.word32, Decode.op]
  case addw | subw | sllw | srlw | sraw | mulw | divw | divuw | remw | remuw => simp [encode, Decode.word32, Decode.op32]
  case lrW | scW | amoswapW | amoaddW | amoxorW | amoandW | amoorW | amominW | amomaxW | amominuW | amomaxuW | lrD | scD
      | amoswapD | amoaddD | amoxorD | amoandD | amoorD | amominD | amomaxD | amominuD | amomaxuD =>
    simp [encode, Decode.word32, Decode.amo]
  case flw | fld => simp [encode, Decode.word32, Decode.loadFp]
  case fsw | fsd => simp [encode, Decode.word32, Decode.storeFp]
  case fmaddS | fmaddD => simp [encode, Decode.word32, Decode.madd]
  case fmsubS | fmsubD => simp [encode, Decode.word32, Decode.msub]
  case fnmsubS | fnmsubD => simp [encode, Decode.word32, Decode.nmsub]
  case fnmaddS | fnmaddD => simp [encode, Decode.word32, Decode.nmadd]
  case faddS | fsubS | fmulS | fdivS | faddD | fsubD | fmulD | fdivD =>
    simp [encode, Decode.word32, Decode.opFp, Decode.opFpArith]
  case fsgnjS | fsgnjnS | fsgnjxS | fminS | fmaxS | feqS | fltS | fleS | fsgnjD | fsgnjnD | fsgnjxD | fminD | fmaxD | feqD
      | fltD | fleD =>
    simp [encode, Decode.word32, Decode.opFp, Decode.opFpArith, Decode.opFpFunct3]
  case fsqrtS | fcvtWS | fcvtWUS | fcvtSW | fcvtSWU | fcvtLS | fcvtLUS | fcvtSL | fcvtSLU | fsqrtD | fcvtSD | fcvtDS
      | fcvtWD | fcvtWUD | fcvtDW | fcvtDWU | fcvtLD | fcvtLUD | fcvtDL | fcvtDLU =>
    simp [encode, Decode.word32, Decode.opFp, Decode.opFpArith, Decode.opFpFunct3, Decode.opFpUnary]
  case fmvXW | fclassS | fmvWX | fclassD | fmvXD | fmvDX =>
    simp [encode, Decode.word32, Decode.opFp, Decode.opFpArith, Decode.opFpFunct3, Decode.opFpUnary, Decode.opFpMove]
  case csrrw | csrrs | csrrc | csrrwi | csrrsi | csrrci => simp [encode, Decode.word32, Decode.system]
  case ecall | ebreak | mret | sret | wfi | sfenceVma =>
    simp [encode, Decode.word32, Decode.system, Decode.systemPriv]
  case cFld | cLw | cLd | cFsd | cSw | cSd => simp [encode, Decode.word16, Decode.quadrant0]
  case cAddi4spn => simp [encode, Decode.word16, Decode.quadrant0, constrained_of_wf h]
  case cSrli | cSrai | cAndi | cSub | cXor | cOr | cAnd | cSubw | cAddw =>
    simp [encode, Decode.word16, Decode.quadrant1, Decode.quadrant1Alu]
  case cNop => simp [encode, Decode.word16, Decode.quadrant1, Fields16.rd]
  case cLi | cJ | cBeqz | cBnez => simp [encode, Decode.word16, Decode.quadrant1]
  case cAddi rd imm =>
    have hrd : rd ≠ 0#5 := bne_iff_ne.1 h
    simp [encode, Decode.word16, Decode.quadrant1, hrd]
  case cAddiw => simp [encode, Decode.word16, Decode.quadrant1, constrained_of_wf h]
  case cAddi16sp => simp [encode, Decode.word16, Decode.quadrant1, Fields16.rd, constrained_of_wf h]
  case cLui rd nzimm =>
    have hrd : rd ≠ 2#5 := bne_iff_ne.1 (Bool.and_eq_true_iff.1 h).1
    simp [encode, Decode.word16, Decode.quadrant1, hrd, constrained_of_wf h]
  case cSlli | cFldsp | cFsdsp | cSwsp | cSdsp => simp [encode, Decode.word16, Decode.quadrant2]
  case cLwsp | cLdsp => simp [encode, Decode.word16, Decode.quadrant2, constrained_of_wf h]
  case cEbreak => simp [encode, Decode.word16, Decode.quadrant2, Decode.quadrant2Jump, Fields16.rs2, Fields16.rd]
  case cJr => simp [encode, Decode.word16, Decode.quadrant2, Decode.quadrant2Jump, Fields16.rs2, constrained_of_wf h]
  case cJalr rs1 =>
    have hrs1 : rs1 ≠ 0#5 := bne_iff_ne.1 h
    simp [encode, Decode.word16, Decode.quadrant2, Decode.quadrant2Jump, Fields16.rs2, hrs1]
  case cMv rd rs2 | cAdd rd rs2 =>
    have hrs2 : rs2 ≠ 0#5 := bne_iff_ne.1 h
    simp [encode, Decode.word16, Decode.quadrant2, Decode.quadrant2Jump, hrs2]

/-! ## The length rule (30_encoding R301) -/

/-- Every major opcode of the 32-bit map ends in 11. -/
theorem opcode_of_word32 {f : Fields32} {i : Instr} (h : Decode.word32 f = some i) : slice f.opcode 0 2 = 3#2 := by
  unfold Decode.word32 at h
  split at h
  case h_22 => cases h
  all_goals
    next hop => rw [hop]; rfl

/-- No quadrant of the 16-bit map is 11. -/
theorem op_of_word16 {f : Fields16} {i : Instr} (h : Decode.word16 f = some i) : f.op ≠ 3#2 := by
  rintro hop
  rw [Decode.word16, hop] at h
  cases h

/-- The low two bits of a 32-bit instruction are 11. -/
theorem low_of_decode_word {w : BitVec 32} {i : Instr} (h : decode (.word w) = some i) : slice w 0 2 = 3#2 := by
  rw [← Fields32.toWord_ofWord w, Laws.Length.word_low]
  exact opcode_of_word32 h

/-- The low two bits of a 16-bit instruction are not 11. -/
theorem low_of_decode_half {w : BitVec 16} {i : Instr} (h : decode (.half w) = some i) : slice w 0 2 ≠ 3#2 := by
  rw [← Fields16.toWord_ofWord w, Laws.Length.half_low]
  exact op_of_word16 h

/-! ## Parcels and their bytes (20_memory R221) -/

@[simp] theorem parcelOfBytes_slices (p : Parcel) : parcelOfBytes (slice p 0 8) (slice p 8 8) = p := by
  apply BitVec.eq_of_getLsbD_eq
  intro k hk
  simp only [parcelOfBytes, slice, BitVec.getLsbD_append, BitVec.getLsbD_extractLsb']
  interval_cases k <;> simp

theorem word_of_parcels (w : BitVec 32) : slice w 16 16 ++ slice w 0 16 = w := by
  apply BitVec.eq_of_getLsbD_eq
  intro k hk
  simp only [slice, BitVec.getLsbD_append, BitVec.getLsbD_extractLsb']
  interval_cases k <;> simp

/-- The low two bits of a word are those of its first parcel. -/
theorem low_of_first_parcel (w : BitVec 32) : slice (slice w 0 16) 0 2 = slice w 0 2 := by
  apply BitVec.eq_of_getLsbD_eq
  intro k hk
  simp only [slice, BitVec.getLsbD_extractLsb']
  interval_cases k <;> simp

/-- The decoder of bytes reads back the bytes of a word that is an instruction. -/
theorem decodeBytes_bytes {w : Encoded} {i : Instr} (h : decode w = some i) (rest : List Byte) :
    decodeBytes (w.bytes ++ rest) = .ok i rest := by
  cases w with
  | half w =>
    simp only [Encoded.bytes, bytesOfParcel, List.cons_append, List.nil_append, decodeBytes, parcelOfBytes_slices,
      if_neg (low_of_decode_half h), h]
  | word w =>
    have hlow : slice (slice w 0 16) 0 2 = 3#2 := (low_of_first_parcel w).trans (low_of_decode_word h)
    simp only [Encoded.bytes, bytesOfParcel, List.cons_append, List.nil_append, decodeBytes, parcelOfBytes_slices,
      if_pos hlow, word_of_parcels, h]

/-- Settles O6: the word of a well-formed instruction decodes to it, and the decoder of bytes reads that word back. -/
theorem decodeEncode : Obligations.DecodeEncode := by
  intro i rest h
  exact decodeBytes_bytes (decode_encode h) rest

end Sys2Proof.Machine
end

section
/-! Family 20_memory: the fetch (20_memory R213, R221, R227, R243; 30_encoding R301). -/

namespace Sys2Proof.Machine

open Sys2Proof

/-! ## One parcel -/

theorem translate_bare {s : State} {va : Word} {acc : Access} (h : s.bare acc = true) : translate s va acc = .ok va s :=
  if_pos h

/-- The two bytes of a loaded halfword. -/
theorem load_two (m : Memory) (a : Nat) : BitVec.ofNat 16 (m.load a 2) = parcelOfBytes (m.byte a) (m.byte (a + 1)) := by
  apply BitVec.eq_of_toNat_eq
  have h0 := (m.byte a).isLt
  have h1 := (m.byte (a + 1)).isLt
  rw [parcelOfBytes, BitVec.toNat_append, ← Nat.shiftLeft_add_eq_or_of_lt h0]
  simp only [Memory.load, BitVec.toNat_ofNat, Nat.shiftLeft_eq]
  omega

/-- A parcel in executable memory is fetched as its two bytes. -/
theorem fetchParcel_memory {s s1 : State} {va pa : Word} {e : PmaEntry} (ht : translate s va .fetch = .ok pa s1)
    (he : findPma s1.cfg.pma pa.toNat 2 = some e) (hx : e.x = true) (hk : e.kind = .memory) :
    fetchParcel s va = .ok (parcelOfBytes (s1.mem.byte pa.toNat) (s1.mem.byte (pa.toNat + 1))) s1 := by
  have hallowed : ¬(e.x = false ∨ e.kind ≠ .memory) := by simp [hx, hk]
  rw [fetchParcel, ht, Result.bind, he]
  dsimp only
  rw [if_neg hallowed, load_two]

/-- The parcel whose bytes stand there is fetched. -/
theorem fetchParcel_bytes {s s1 : State} {va pa : Word} {e : PmaEntry} {p : Parcel} (ht : translate s va .fetch = .ok pa s1)
    (he : findPma s1.cfg.pma pa.toNat 2 = some e) (hx : e.x = true) (hk : e.kind = .memory)
    (h0 : s1.mem.byte pa.toNat = slice p 0 8) (h1 : s1.mem.byte (pa.toNat + 1) = slice p 8 8) :
    fetchParcel s va = .ok p s1 := by
  rw [fetchParcel_memory ht he hx hk, h0, h1, parcelOfBytes_slices]

/-- The translation of the parcel raises `e`, or its address lies in no entry, in one without X, or in a device; `s1` is the
state left. -/
def FetchRefused (s : State) (va : Word) (e : Exc) (s1 : State) : Prop :=
  (∃ tval, translate s va .fetch = .raised e tval s1) ∨
    (e = .instructionAccessFault ∧ ∃ pa : Word, translate s va .fetch = .ok pa s1 ∧
      ∀ en, findPma s1.cfg.pma pa.toNat 2 = some en → en.x = false ∨ en.kind ≠ .memory)

theorem FetchRefused.exc {s s1 : State} {va : Word} {e : Exc} (h : FetchRefused s va e s1) :
    e = .instructionPageFault ∨ e = .instructionAccessFault := by
  rcases h with ⟨tval, ht⟩ | ⟨rfl, -⟩
  · exact (translate_raised ht).2.2
  · exact .inr rfl

theorem FetchRefused.fetchParcel {s s1 : State} {va : Word} {e : Exc} (h : FetchRefused s va e s1) :
    fetchParcel s va = .raised e va s1 := by
  rcases h with ⟨tval, ht⟩ | ⟨rfl, pa, ht, hno⟩
  · obtain ⟨rfl, rfl, -⟩ := translate_raised ht
    rw [Machine.fetchParcel, ht, Result.bind]
  · rw [Machine.fetchParcel, ht, Result.bind]
    cases hen : findPma s1.cfg.pma pa.toNat 2 with
    | none => rfl
    | some en => exact if_pos (hno en hen)

/-! ## One or two parcels (30_encoding R301) -/

theorem fetch_misaligned {s : State} (hpc : s.pc.getLsbD 0 = true) :
    fetch s = .raised .instructionAddressMisaligned s.pc s := if_pos hpc

section
variable {s s1 : State} (hpc : s.pc.getLsbD 0 = false)
include hpc

theorem fetch_first_raised {e : Exc} (h : fetchParcel s s.pc = .raised e s.pc s1) : fetch s = .raised e s.pc s1 := by
  rw [fetch, if_neg (Bool.eq_false_iff.1 hpc), h, Result.bind]

theorem fetch_half {lo : Parcel} (h : fetchParcel s s.pc = .ok lo s1) (hlo : slice lo 0 2 ≠ 3#2) :
    fetch s = .ok (.half lo) s1 := by
  rw [fetch, if_neg (Bool.eq_false_iff.1 hpc), h, Result.bind, if_pos hlo]

theorem fetch_second_raised {lo : Parcel} {s2 : State} {e : Exc} (h : fetchParcel s s.pc = .ok lo s1)
    (hlo : slice lo 0 2 = 3#2) (h2 : fetchParcel s1 (s.pc + 2#64) = .raised e (s.pc + 2#64) s2) :
    fetch s = .raised e (s.pc + 2#64) s2 := by
  rw [fetch, if_neg (Bool.eq_false_iff.1 hpc), h, Result.bind, if_neg (not_not_intro hlo), h2, Result.bind]

theorem fetch_word {lo hi : Parcel} {s2 : State} (h : fetchParcel s s.pc = .ok lo s1) (hlo : slice lo 0 2 = 3#2)
    (h2 : fetchParcel s1 (s.pc + 2#64) = .ok hi s2) : fetch s = .ok (.word (hi ++ lo)) s2 := by
  rw [fetch, if_neg (Bool.eq_false_iff.1 hpc), h, Result.bind, if_neg (not_not_intro hlo), h2, Result.bind]

end

/-! ## The bytes of an instruction -/

section
variable {s s1 : State} {i : Instr} {pa1 : Word} {e1 : PmaEntry} (hi : i.WF) (hpc : s.pc.getLsbD 0 = false)
  (ht1 : translate s s.pc .fetch = .ok pa1 s1) (he1 : findPma s1.cfg.pma pa1.toNat 2 = some e1) (hx1 : e1.x = true)
  (hk1 : e1.kind = .memory)
  (hb1 : ∀ k b, k < 2 → (encode i).bytes[k]? = some b → s1.mem.byte (pa1.toNat + k) = b)
include hi hpc ht1 he1 hx1 hk1 hb1

/-- A two-byte instruction is fetched in the state that its translation left. -/
theorem fetch_of_two_bytes (hlen : i.ilen = 2) : fetch s = .ok (encode i) s1 := by
  cases hw : encode i with
  | word w => rw [Instr.ilen, hw] at hlen; cases hlen
  | half w =>
    rw [hw] at hb1
    have hlow : slice w 0 2 ≠ 3#2 := low_of_decode_half (hw ▸ decode_encode hi)
    exact fetch_half hpc (fetchParcel_bytes ht1 he1 hx1 hk1 (hb1 0 _ (by decide) rfl) (hb1 1 _ (by decide) rfl)) hlow

/-- A four-byte instruction is fetched in the state that its two translations left. -/
theorem fetch_of_four_bytes {s2 : State} {pa2 : Word} {e2 : PmaEntry} (hlen : i.ilen = 4)
    (ht2 : translate s1 (s.pc + 2#64) .fetch = .ok pa2 s2) (he2 : findPma s2.cfg.pma pa2.toNat 2 = some e2)
    (hx2 : e2.x = true) (hk2 : e2.kind = .memory)
    (hb2 : ∀ k b, (encode i).bytes[k + 2]? = some b → s2.mem.byte (pa2.toNat + k) = b) : fetch s = .ok (encode i) s2 := by
  cases hw : encode i with
  | half w => rw [Instr.ilen, hw] at hlen; cases hlen
  | word w =>
    rw [hw] at hb1 hb2
    have hlow : slice (slice w 0 16) 0 2 = 3#2 :=
      (low_of_first_parcel w).trans (low_of_decode_word (hw ▸ decode_encode hi))
    have hfirst : fetchParcel s s.pc = .ok (slice w 0 16) s1 :=
      fetchParcel_bytes ht1 he1 hx1 hk1 (hb1 0 _ (by decide) rfl) (hb1 1 _ (by decide) rfl)
    have hsecond : fetchParcel s1 (s.pc + 2#64) = .ok (slice w 16 16) s2 :=
      fetchParcel_bytes ht2 he2 hx2 hk2 (hb2 0 _ rfl) (hb2 1 _ rfl)
    rw [fetch_word hpc hfirst hlow hsecond, word_of_parcels]

end

/-- Every instruction is two or four bytes long. -/
theorem ilen_cases (i : Instr) : i.ilen = 2 ∨ i.ilen = 4 := by
  rw [Instr.ilen]
  cases encode i with
  | half w => exact .inl rfl
  | word w => exact .inr rfl

/-- The low two bits of a parcel are those of its first byte. -/
theorem parcelOfBytes_low {b0 b1 : Byte} (h0 : b0.getLsbD 0 = true) (h1 : b0.getLsbD 1 = true) :
    slice (parcelOfBytes b0 b1) 0 2 = 3#2 := by
  apply BitVec.eq_of_getLsbD_eq
  intro k hk
  simp only [parcelOfBytes, slice, BitVec.getLsbD_append, BitVec.getLsbD_extractLsb']
  interval_cases k <;> simp [h0, h1]

/-- Settles O11: the untranslated fetch is the translated one with both addresses unchanged, and the faults of each parcel
carry its own address. -/
theorem fetch_spec : Obligations.Fetch := by
  refine ⟨?bare, ?translated, fun s => fetch_misaligned,
    fun s va e s1 h => ⟨FetchRefused.exc h, FetchRefused.fetchParcel h⟩, ?first, ?second⟩
  case bare =>
    intro s i e1 e2 hi hpc hbare he1 hx1 hk1 h2 hb
    have hb1 : ∀ k b, k < 2 → (encode i).bytes[k]? = some b → s.mem.byte (s.pc.toNat + k) = b := by
      intro k b hk hkb
      have := hb k b hkb
      rwa [if_pos hk] at this
    rcases ilen_cases i with hlen | hlen
    · exact fetch_of_two_bytes hi hpc (translate_bare hbare) he1 hx1 hk1 hb1 hlen
    · obtain ⟨he2, hx2, hk2⟩ := h2 hlen
      refine fetch_of_four_bytes hi hpc (translate_bare hbare) he1 hx1 hk1 hb1 hlen (translate_bare hbare) he2 hx2 hk2 ?_
      intro k b hkb
      have := hb (k + 2) b hkb
      rwa [if_neg (by omega), Nat.add_sub_cancel] at this
  case translated =>
    intro s s1 s2 i pa1 pa2 e1 e2 hi hpc ht1 he1 hx1 hk1 hb1
    exact ⟨fetch_of_two_bytes hi hpc ht1 he1 hx1 hk1 hb1, fun hlen => fetch_of_four_bytes hi hpc ht1 he1 hx1 hk1 hb1 hlen⟩
  case first =>
    exact fun s e s1 hpc h => fetch_first_raised hpc (FetchRefused.fetchParcel h)
  case second =>
    intro s s1 s2 pa en e hpc ht he hx hk h0 h1 h
    exact fetch_second_raised hpc (fetchParcel_memory ht he hx hk) (parcelOfBytes_low h0 h1) (FetchRefused.fetchParcel h)

end Sys2Proof.Machine
end

section
/-! Family 20_memory: what a data access does, instruction by instruction, when it is misaligned, and what it leaves alone when it
is no store (20_memory R225, R226, R232; 60_exceptions R812). -/

namespace Sys2Proof.Machine

open Sys2Proof

/-! ## The operation behind a data access -/

/-- The outcome is that of the load, the store or the atomic operation that makes this access. -/
inductive Performs (s : State) : DataAccess → StepOutcome → Prop
  | loadX (len : Word) (n : Nat) (ext : Word → Word) (rd : Reg) (va : Word) :
      Performs s ⟨.load, va, n, false⟩ (loadX len n ext rd va s)
  | loadF (len : Word) (n : Nat) (box : Word → Word) (rd : Reg) (va : Word) :
      Performs s ⟨.load, va, n, false⟩ (loadF len n box rd va s)
  | store (len : Word) (n : Nat) (va v : Word) : Performs s ⟨.store, va, n, false⟩ (storeMemory len n va v s)
  | reserve (n : Nat) (ext : Word → Word) (rd rs1 : Reg) :
      Performs s ⟨.load, s.getX rs1, n, true⟩ (loadReserved n ext rd rs1 s)
  | conditional (n : Nat) (rd rs1 rs2 : Reg) :
      Performs s ⟨.store, s.getX rs1, n, true⟩ (storeConditional n rd rs1 rs2 s)
  | amo (n : Nat) (ext : Word → Word) (f : Word → Word → Word) (rd rs1 rs2 : Reg) :
      Performs s ⟨.store, s.getX rs1, n, true⟩ (amo n ext f rd rs1 rs2 s)

theorem requireFp_performs {i : Instr} {s : State} {a : DataAccess} {k : StepOutcome} (hfs : s.fs ≠ 0#2)
    (h : Performs s a k) : Performs s a (requireFp i s k) := by
  rwa [requireFp_on hfs]

/-- An instruction with a data access, the floating-point unit on if it needs it, performs that access. -/
theorem exec_performs {i : Instr} {s : State} {a : DataAccess} (ha : accessOf i s = some a)
    (hfp : needsFp i = true → s.fs ≠ 0#2) : Performs s a (exec i s) := by
  cases i <;> simp only [accessOf, exec, reduceCtorEq, Option.some.injEq] at ha ⊢ <;> subst ha
  case lb | lh | lw | lbu | lhu | lwu | ld | cLw | cLd | cLwsp | cLdsp => exact .loadX ..
  case sb | sh | sw | sd | cSw | cSd | cSwsp | cSdsp => exact .store ..
  case flw | fld | cFld | cFldsp => exact requireFp_performs (hfp rfl) (.loadF ..)
  case fsw | fsd | cFsd | cFsdsp => exact requireFp_performs (hfp rfl) (.store ..)
  case lrW | lrD => exact .reserve ..
  case scW | scD => exact .conditional ..
  case amoswapW | amoaddW | amoxorW | amoandW | amoorW | amominW | amomaxW | amominuW | amomaxuW | amoswapD | amoaddD
      | amoxorD | amoandD | amoorD | amominD | amomaxD | amominuD | amomaxuD =>
    exact .amo ..

/-! ## Misaligned accesses (20_memory R225, R226) -/

theorem memRead_misaligned {s : State} {va : Word} {n : Nat} (h : va.toNat % n ≠ 0) :
    memRead s va n = .raised .loadAddressMisaligned va s := if_pos h

theorem memWrite_misaligned {s : State} {va : Word} {n : Nat} (h : va.toNat % n ≠ 0) (v : Word) :
    memWrite s va n v = .raised .storeAmoAddressMisaligned va s := if_pos h

theorem atomicAddr_misaligned {s : State} {va : Word} {n : Nat} (h : va.toNat % n ≠ 0) (acc : Access) :
    atomicAddr s va n acc = .raised acc.misaligned va s := if_pos h

/-- Each of the operations checks the alignment first. -/
theorem Performs.misaligned {s : State} {a : DataAccess} {o : StepOutcome} (h : Performs s a o)
    (hmis : a.va.toNat % a.size ≠ 0) :
    o = .next (s.takeException a.acc.misaligned a.va) := by
  cases h with
  | loadX len n ext rd va => rw [Machine.loadX, memRead_misaligned hmis]; rfl
  | loadF len n box rd va => rw [Machine.loadF, memRead_misaligned hmis]; rfl
  | store len n va v => rw [storeMemory, memWrite_misaligned hmis]; rfl
  | reserve n ext rd rs1 => rw [loadReserved, atomicAddr_misaligned hmis]; rfl
  | conditional n rd rs1 rs2 => rw [storeConditional, atomicAddr_misaligned hmis]; rfl
  | amo n ext f rd rs1 rs2 => rw [Machine.amo, atomicAddr_misaligned hmis]; rfl

/-- Settles O17: the instruction performs its access, whose first check is the alignment. -/
theorem misalignedAccessTraps : Obligations.MisalignedAccessTraps := by
  intro i s acc va n atomic ha hfp hmis
  exact (exec_performs ha hfp).misaligned hmis

/-! ## What only stores change (20_memory R232; 60_exceptions R812) -/

theorem SameDevices.of_onlyWalk {s t : State} (h : OnlyWalk s t) : SameDevices s t := by
  rw [h]
  exact ⟨rfl, rfl, rfl, rfl, rfl, rfl, rfl⟩

theorem SameDevices.trans {s t u : State} (h : SameDevices s t) (h' : SameDevices t u) : SameDevices s u := by
  obtain ⟨hcmp, hto, hfrom, hpend, hout, hhalt, hyield⟩ := h
  simpa only [SameDevices, hcmp, hto, hfrom, hpend, hout, hhalt, hyield] using h'

/-- An instruction without a data access leaves memory and the devices alone. -/
theorem Effect.without_access {i : Instr} {s t : State} (h : Effect i s t) (hn : accessOf i s = none) :
    t.mem = s.mem ∧ (t.ilrsc = s.ilrsc ∨ t.ilrsc = none) ∧ SameDevices s t := by
  cases h with
  | trap u e tval hu =>
    rcases hu with rfl | ⟨a, pa, ha, -⟩
    · simp [SameDevices]
    · cases hn.symm.trans ha
  | toX | toF | toXFlags => simp [SameDevices]
  | csr a c wr v rd => cases wr <;> simp [SameDevices]
  | mret | sret => simp [SameDevices, State.retireHere]
  | wfi | sfence => simp [SameDevices]
  | loadX _ _ _ _ _ _ _ ha | loadF _ _ _ _ _ _ _ ha => cases hn.symm.trans ha
  | store _ _ _ _ _ _ _ _ ha => cases hn.symm.trans ha
  | reserve _ _ _ _ _ _ ha | condStore _ _ _ _ _ _ ha | condSkip _ _ _ _ _ ha | amo _ _ _ _ _ _ _ ha =>
    cases hn.symm.trans ha

/-- An instruction that only loads changes, of memory, `mip` and the devices, at most what the translation of its address did. -/
theorem Effect.of_load {i : Instr} {s t : State} {va : Word} {n : Nat} {atomic : Bool} (h : Effect i s t)
    (ha : accessOf i s = some ⟨.load, va, n, atomic⟩) :
    ∃ u, (u = s ∨ ∃ pa, translate s va .load = .ok pa u) ∧ t.mem = u.mem ∧ t.mip = u.mip ∧ SameDevices u t := by
  cases h with
  | trap u e tval hu =>
    refine ⟨u, hu.imp_right ?_, by simp [SameDevices]⟩
    rintro ⟨a, pa, ha', ht⟩
    cases ha.symm.trans ha'
    exact ⟨pa, ht⟩
  | loadX va' pa n' s1 rd v len ha' ht | loadF va' pa n' s1 rd v len ha' ht | reserve va' pa n' s1 rd v ha' hsize ht =>
    cases ha.symm.trans ha'
    exact ⟨s1, .inr ⟨pa, ht⟩, by simp [SameDevices]⟩
  | store _ _ _ _ _ _ _ _ ha' => cases ha.symm.trans ha'
  | condStore _ _ _ _ _ _ ha' | condSkip _ _ _ _ _ ha' | amo _ _ _ _ _ _ _ ha' => cases ha.symm.trans ha'
  | toX _ _ _ hn | toF _ _ _ hn | toXFlags _ _ _ hn | csr _ _ _ _ _ _ hn => cases hn.symm.trans ha
  | mret hi | sret hi | wfi hi | sfence _ _ hi => subst hi; cases ha

/-- Settles O19: `exec` has one of the shapes of `Effect`, and what stands before a load or an exception is its translation. -/
theorem onlyStoresChangeMemory : Obligations.OnlyStoresChangeMemory := by
  intro i s t h
  refine ⟨fun hn => (effect_of_exec h).without_access hn, fun va n atomic ha => ?_⟩
  obtain ⟨u, hu, hmem, hmip, hdev⟩ := (effect_of_exec h).of_load ha
  have hwalk : OnlyWalk s u := by
    rcases hu with rfl | ⟨pa, ht⟩
    · exact OnlyWalk.refl _
    · exact translate_onlyWalk ht
  refine ⟨(SameDevices.of_onlyWalk hwalk).trans hdev, hmip.trans hwalk.mip, fun pa s1 ht => ?_, fun e tval s1 ht => ?_⟩
  · rcases hu with rfl | ⟨pa', ht'⟩
    · exact .inr hmem
    · cases ht.symm.trans ht'
      exact .inl hmem
  · rcases hu with rfl | ⟨pa', ht'⟩
    · exact hmem
    · cases ht.symm.trans ht'

end Sys2Proof.Machine
end

section
/-! Family 20_memory: the page-table walk, untranslated accesses and the TLBs (20_memory R242, R250 to R262). -/

namespace Sys2Proof.Machine

open Sys2Proof

/-! ## Failing walks (20_memory R252, R254, R257) -/

/-- In a canonical address every bit from the top of the virtual address on is the bit below. -/
theorem getLsbD_of_canonical {levels : Nat} {va : Word} (h : canonical levels va = true) {k : Nat} (hlow : 11 + 9 * levels ≤ k)
    (hk : k < 64) : va.getLsbD k = va.getLsbD (11 + 9 * levels) := by
  have hbit (j : Nat) (hj : 11 + 9 * levels ≤ j) :
      va.getLsbD j = (va.toNat / 2 ^ (11 + 9 * levels)).testBit (j - (11 + 9 * levels)) := by
    rw [Nat.testBit_div_two_pow, Nat.sub_add_cancel hj]; rfl
  rw [hbit k hlow, hbit _ (Nat.le_refl _)]
  simp only [canonical, Bool.or_eq_true, decide_eq_true_eq] at h
  rcases h with h | h
  · rw [h, Nat.zero_testBit, Nat.zero_testBit]
  · rw [h, Nat.testBit_two_pow_sub_one, Nat.testBit_two_pow_sub_one]
    exact (decide_eq_true (by omega)).trans (decide_eq_true (by omega)).symm

theorem walk_not_canonical {s : State} {va : Word} (h : canonical (levelsOf s.satpMode) va = false) (acc : Access)
    (eff : Priv) : walk s va acc eff = .raised acc.pageFault va s := if_pos h

/-- A walk that raises raises a fault of its kind with the virtual address, and changes nothing. -/
theorem walk_raised {s s1 : State} {va tval : Word} {acc : Access} {eff : Priv} {e : Exc}
    (h : walk s va acc eff = .raised e tval s1) : s1 = s ∧ tval = va ∧ (e = acc.pageFault ∨ e = acc.accessFault) := by
  rcases walk_cases s va acc eff with ⟨e', hr, he⟩ | ⟨_, _, _, _, _, _, hok, -⟩
  · cases h.symm.trans hr
    exact ⟨rfl, rfl, he⟩
  · cases h.symm.trans hok

/-- Settles O55: a bit that differs breaks the canonical form, and `walk_cases` lists what a walk can raise. -/
theorem walkFaults : Obligations.WalkFaults := by
  refine ⟨fun s va acc eff levels hmode => ?_, fun s s1 va tval acc eff e => walk_raised⟩
  rintro ⟨k, hlow, hk, hne⟩
  have hlevels : levelsOf s.satpMode = levels := by
    rcases hmode with ⟨hm, rfl⟩ | ⟨hm, rfl⟩ | ⟨hm, rfl⟩ <;> rw [hm] <;> rfl
  refine walk_not_canonical (Bool.eq_false_iff.2 fun hc => ?_) acc eff
  rw [hlevels] at hc
  exact hne (getLsbD_of_canonical hc (by omega) hk)

/-! ## Successful walks (20_memory R254 to R256) -/

theorem levelsOf_le (mode : BitVec 4) : levelsOf mode ≤ 5 := by
  unfold levelsOf
  split <;> decide

/-- A descent only takes levels off. -/
theorem Descends.le {s : State} {va : Word} {n a m b : Nat} (h : Descends s va n a m b) : m ≤ n := by
  induction h with
  | here => exact Nat.le_refl _
  | down _ _ _ _ _ _ _ _ _ ih => omega

/-- The page offset passes through every leaf. -/
theorem leafAddress_mod (pte va : Word) (i : Nat) : (leafAddress pte va i).toNat % 4096 = va.toNat % 4096 := by
  have hpage : 4096 ∣ 2 ^ (12 + 9 * i) := ⟨2 ^ (9 * i), pow_add 2 12 (9 * i)⟩
  have hoffset : va.toNat % 2 ^ (12 + 9 * i) % 4096 = va.toNat % 4096 := Nat.mod_mod_of_dvd _ hpage
  obtain ⟨m, hm⟩ : 4096 ∣ ptePpn pte / 2 ^ (9 * i) * 2 ^ (12 + 9 * i) := hpage.mul_left _
  rw [leafAddress, BitVec.toNat_ofNat, hm]
  omega

/-- A leaf's address is a 56-bit number: nothing of it is cut off. -/
theorem leafAddress_lt (pte va : Word) {i : Nat} (hi : i ≤ 4) :
    ptePpn pte / 2 ^ (9 * i) * 2 ^ (12 + 9 * i) + va.toNat % 2 ^ (12 + 9 * i) < 2 ^ 56 := by
  have hppn : ptePpn pte < 2 ^ 44 := (slice pte 10 44).isLt
  interval_cases i <;> omega

theorem leafAddress_toNat (pte va : Word) {i : Nat} (hi : i ≤ 4) :
    (leafAddress pte va i).toNat = ptePpn pte / 2 ^ (9 * i) * 2 ^ (12 + 9 * i) + va.toNat % 2 ^ (12 + 9 * i) := by
  have hlt := leafAddress_lt pte va hi
  rw [leafAddress, BitVec.toNat_ofNat, Nat.mod_eq_of_lt (by omega)]

/-- `Permitted` bit by bit (20_memory R256). -/
theorem permitted_bits {s : State} {pte : Word} {acc : Access} {eff : Priv} (h : permitted s pte acc eff = true) :
    (acc = .fetch → pte.getLsbD 3 = true ∧ ¬(eff = .supervisor ∧ pte.getLsbD 4 = true)) ∧
      (acc = .load → pte.getLsbD 1 = true ∨ (pte.getLsbD 3 = true ∧ s.mstatus.getLsbD 19 = true)) ∧
      (acc = .store → pte.getLsbD 2 = true) ∧ (eff = .user → pte.getLsbD 4 = true) ∧
      (eff = .supervisor → pte.getLsbD 4 = true → s.mstatus.getLsbD 18 = true) := by
  simp only [permitted, Bool.if_false_left, Bool.and_eq_true, Bool.not_eq_true', decide_eq_false_iff_not] at h
  obtain ⟨huser, hsuper, hflag⟩ := h
  refine ⟨?fetch, ?load, ?store, ?user, ?super⟩
  case fetch => rintro rfl; exact ⟨hflag, fun hs => hsuper ⟨hs.1, hs.2, .inl rfl⟩⟩
  case load => rintro rfl; simpa [State.mxr, and_comm] using hflag
  case store => rintro rfl; exact hflag
  case user => intro hu; by_contra h4; exact huser ⟨hu, Bool.eq_false_iff.2 h4⟩
  case super => intro hs h4; by_contra hsum; exact hsuper ⟨hs, h4, .inr (Bool.eq_false_iff.2 hsum)⟩

/-- The bytes of a loaded number are those that stand in memory. -/
theorem loadMem_bytes (s : State) (a : Nat) : BytesAre s a 8 (s.loadMem a 8).toNat := by
  intro k hk
  have hlt : s.mem.load a 8 < 2 ^ 64 := Memory.load_lt s.mem a 8
  rw [State.loadMem, BitVec.toNat_ofNat, Nat.mod_eq_of_lt hlt, Memory.load_digit _ _ _ _ hk]

/-- Bits that are set already change nothing. -/
theorem or_eq_left_of_and {w m : Word} (h : w &&& m = m) : w ||| m = w := by
  rw [← h]
  ext k hk
  simp only [BitVec.getElem_or, BitVec.getElem_and]
  cases w[k] <;> simp

/-- The entry of the leaf ends with the bits the access needs, and no other byte differs. -/
theorem Leaf.updated {s s1 : State} {va pa : Word} {acc : Access} {eff : Priv} {i a : Nat} {pte : Word} {e : PmaEntry}
    (h : Leaf s va acc eff pa s1 i a pte e) (hm : s.mem.wf = true) :
    BytesAre s1 a 8 (pte ||| neededBits acc).toNat ∧ SameOutside s s1 a 8 := by
  rcases h.after with ⟨hset, rfl⟩ | ⟨-, rfl⟩
  · rw [or_eq_left_of_and hset, h.value]
    exact ⟨loadMem_bytes s1 a, fun _ _ => rfl⟩
  · exact ⟨storeMem_bytes hm a 8 _, storeMem_outside hm a 8 _⟩

/-- A walk breaks the reservation or keeps it. -/
theorem Leaf.reservation {s s1 : State} {va pa : Word} {acc : Access} {eff : Priv} {i a : Nat} {pte : Word} {e : PmaEntry}
    (h : Leaf s va acc eff pa s1 i a pte e) : s1.ilrsc = s.ilrsc ∨ s1.ilrsc = none := by
  rcases h.after with ⟨-, rfl⟩ | ⟨-, rfl⟩
  · exact .inl rfl
  · rw [storeMem_ilrsc]
    cases hr : s.ilrsc with
    | none => exact .inr rfl
    | some r =>
      rw [breakReservation]
      split
      · exact .inr rfl
      · exact .inl rfl

theorem neededBits_eq (acc : Access) : neededBits acc = if acc = .store then 0xC0#64 else 0x40#64 := by
  cases acc <;> rfl

/-- Settles O56: the leaf of `walk_cases`, its level bounded by the levels of the scheme. -/
theorem walkResult : Obligations.WalkResult := by
  intro s s1 va pa acc eff hm hwalk
  rcases walk_cases s va acc eff with ⟨_, hr, -⟩ | ⟨pa', s1', i, b, pte, e, hok, hdesc, hleaf⟩
  · cases hwalk.symm.trans hr
  · cases hwalk.symm.trans hok
    have hi : i ≤ 4 := Nat.le_of_succ_le_succ (hdesc.le.trans (levelsOf_le _))
    obtain ⟨hfetch, hload, hstore, huser, hsuper⟩ := permitted_bits hleaf.permitted
    obtain ⟨hbytes, houtside⟩ := hleaf.updated hm
    have hw : pte.getLsbD 2 = true → pte.getLsbD 1 = true := fun h2 =>
      Bool.not_eq_false _ ▸ fun h1 => hleaf.noWriteOnly ⟨h1, h2⟩
    have hpa : pa.toNat = ptePpn pte / 2 ^ (9 * i) * 2 ^ (12 + 9 * i) + va.toNat % 2 ^ (12 + 9 * i) :=
      hleaf.address ▸ leafAddress_toNat pte va hi
    refine ⟨i, b, pte, e, hdesc, hleaf.found, hleaf.memory, hleaf.readable, ?old, hleaf.valid, hleaf.reserved, hleaf.leaf, hw,
      hfetch, hload, hstore, huser, hsuper, hleaf.aligned, hleaf.address, hpa, ?offset, ?bound, ?new, houtside,
      hleaf.onlyWalk, hleaf.reservation⟩
    case old => rw [hleaf.value]; exact loadMem_bytes s _
    case offset => rw [hleaf.address, leafAddress_mod]
    case bound => rw [hpa]; exact leafAddress_lt pte va hi
    case new => rw [← neededBits_eq]; exact hbytes

/-! ## Untranslated accesses (20_memory R242, R250) -/

/-- The effective privilege: `MPP` for loads and stores under `MPRV`, else the current mode. -/
theorem effPriv_eq (s : State) (acc : Access) :
    s.effPriv acc = if acc ≠ .fetch ∧ s.mstatus.getLsbD 17 = true then s.mpp else s.priv := by
  cases acc <;> simp [State.effPriv, State.mprv]

theorem bare_iff {s : State} {acc : Access} : s.bare acc = true ↔ s.effPriv acc = .machine ∨ s.satpMode = 0#4 := by
  simp [State.bare]

/-! ## A page and the offset in it -/

theorem getLsbD_offsetMask (k : Nat) : (0xFFF#64).getLsbD k = decide (k < 12) := by
  by_cases hk : k < 64
  · interval_cases k <;> rfl
  · rw [BitVec.getLsbD_of_ge _ _ (by omega), decide_eq_false (by omega)]

/-- The page part of an address as a number. -/
theorem pageOf_toNat (a : Word) : (pageOf a).toNat = a.toNat / 4096 * 4096 := by
  apply Nat.eq_of_testBit_eq
  intro k
  rw [show 4096 = 2 ^ 12 from rfl, Nat.testBit_mul_two_pow, BitVec.testBit_toNat, pageOf, BitVec.getLsbD_and,
    BitVec.getLsbD_not, getLsbD_offsetMask, Nat.testBit_div_two_pow, BitVec.testBit_toNat]
  by_cases hk : 12 ≤ k
  · have hlt : a.getLsbD k = true → k < 64 := BitVec.lt_of_getLsbD
    rw [Nat.sub_add_cancel hk]
    by_cases hb : a.getLsbD k = true <;> simp_all
  · simp [hk, Nat.lt_of_not_le hk]

/-- The offset of an address in its page as a number. -/
theorem offset_toNat (a : Word) : (a &&& 0xFFF#64).toNat = a.toNat % 4096 :=
  (BitVec.toNat_and ..).trans (Nat.and_two_pow_sub_one_eq_mod a.toNat 12)

/-- A page and the offset in it make the address again. -/
theorem pageOf_or_offset {pa va : Word} (h : pa.toNat % 4096 = va.toNat % 4096) : pageOf pa ||| (va &&& 0xFFF#64) = pa := by
  have hoffset : va &&& 0xFFF#64 = pa &&& 0xFFF#64 :=
    BitVec.eq_of_toNat_eq (by rw [offset_toNat, offset_toNat, h])
  rw [hoffset, pageOf]
  ext k hk
  simp only [BitVec.getElem_or, BitVec.getElem_and, BitVec.getElem_not]
  cases pa[k] <;> cases (0xFFF#64)[k] <;> rfl

/-! ## The TLBs (20_memory R260, R261, R262) -/

/-- An entry that was put is found. -/
theorem Tlb.at_put (t : Tlb) (i : Nat) (e : TlbEntry) : (t.put i e).at i = some e := by
  induction t with
  | nil => simp [Tlb.put, Tlb.at]
  | cons p rest ih =>
    obtain ⟨j, e'⟩ := p
    rw [Tlb.put]
    split
    · simp [Tlb.at]
    · split
      · simp [Tlb.at]
      next hij => rw [Tlb.at, if_neg (Ne.symm hij), ih]

/-- An entry that was put for the page of `va` hits for `va`. -/
theorem Tlb.hit_put (t : Tlb) (va : Word) {e : TlbEntry} (h : e.vaddrPage = pageOf va) :
    (t.put (tlbIndex va) e).hit va = some e := by
  rw [Tlb.hit, Tlb.at_put]
  exact if_pos h

@[simp] theorem tlb_setTlb (s : State) (acc : Access) (t : Tlb) : (s.setTlb acc t).tlb acc = t := by cases acc <;> rfl

theorem tlb_flushTlbs (s : State) (acc : Access) : s.flushTlbs.tlb acc = [] := by cases acc <;> rfl

/-- A page that lies wholly in a suitable memory entry is entered. -/
theorem fillTlb_of_page {s : State} {acc : Access} {va pa : Word} {k : Nat} {e : PmaEntry}
    (hk : s.cfg.pma.findIdx? (fun e => containsRange e (pageOf pa).toNat 4096) = some k) (he : s.cfg.pma[k]? = some e)
    (hmem : e.kind = .memory) (hflag : acc.flagOf e = true) :
    s.fillTlb acc va pa = s.setTlb acc ((s.tlb acc).put (tlbIndex va) ⟨pageOf va, pageOf pa, k⟩) := by
  simp only [State.fillTlb, hk, he]
  exact if_pos ⟨hmem, hflag⟩

/-- A translation that hits answers the page of the entry and the offset of the address. -/
theorem translate_hit {s : State} {va : Word} {acc : Access} {e : TlbEntry} (hb : s.bare acc = false)
    (h : (s.tlb acc).hit va = some e) : translate s va acc = .ok (e.paddrPage ||| (va &&& 0xFFF#64)) s := by
  rw [translate, if_neg (Bool.eq_false_iff.1 hb), h]

/-- A translation whose page can be entered answers the same again, and the second time nothing changes. -/
theorem translate_again {s s1 : State} {va pa : Word} {acc : Access} {k : Nat} {e : PmaEntry} (hb : s.bare acc = false)
    (h : translate s va acc = .ok pa s1)
    (hk : s1.cfg.pma.findIdx? (fun e => containsRange e (pageOf pa).toNat 4096) = some k) (he : s1.cfg.pma[k]? = some e)
    (hmem : e.kind = .memory) (hflag : acc.flagOf e = true) : translate s1 va acc = .ok pa s1 := by
  have hb1 : s1.bare acc = false := ((translate_onlyWalk h).bare acc).trans hb
  rcases translate_cases s va acc with
    ⟨hbare, -⟩ | ⟨-, ⟨en, hhit, ht⟩ | ⟨-, ⟨_, hr, -⟩ | ⟨pa', u, i, a, pte, en, -, hleaf, ht⟩⟩⟩
  · cases hb.symm.trans hbare
  · cases h.symm.trans ht
    exact ht
  · cases h.symm.trans hr
  · cases h.symm.trans ht
    have hcfg : (u.fillTlb acc va pa).cfg = u.cfg := (OnlyWalk.fillTlb u acc va pa).cfg
    rw [hcfg] at hk he
    have hhit : ((u.fillTlb acc va pa).tlb acc).hit va = some ⟨pageOf va, pageOf pa, k⟩ := by
      rw [fillTlb_of_page hk he hmem hflag, tlb_setTlb]
      exact Tlb.hit_put _ va rfl
    have hoffset : pa.toNat % 4096 = va.toNat % 4096 := hleaf.address ▸ leafAddress_mod pte va i
    rw [translate_hit hb1 hhit, pageOf_or_offset hoffset]

/-- Settles O54: `bare_iff` for the untranslated accesses, `translate_again` for the filled entry. -/
theorem bareAndTlb : Obligations.BareAndTlb := by
  refine ⟨fun s va acc => ?untranslated, fun s s1 va pa acc hb h => ?filled, fun s va acc => ?flushed⟩
  case untranslated =>
    refine ⟨fun h => translate_bare (bare_iff.2 ?_), effPriv_eq s acc⟩
    rwa [effPriv_eq]
  case filled =>
    rintro ⟨k, e, hk, he, hmem, hflag⟩
    rw [← pageOf_toNat] at hk
    exact translate_again hb h hk he hmem hflag
  case flushed => rw [tlb_flushTlbs]; rfl

end Sys2Proof.Machine
end

section
/-! Family 30_encoding: the encoder undoes the decoder (30_encoding R301 to R325; 49_c_compressed R701 to R741). -/

namespace Sys2Proof.Machine

open Sys2Proof

/-- The instruction is well formed and the word is its encoding. -/
def EncodedAs (i : Instr) (w : Encoded) : Prop := i.WF ∧ encode i = w

/-! ## Words, bit by bit -/

theorem word_eq_of_bits {f g : Fields32} (h : ∀ k < 32, f.toWord.getLsbD k = g.toWord.getLsbD k) :
    Encoded.word f.toWord = .word g.toWord := congrArg Encoded.word (BitVec.eq_of_getLsbD_eq h)

theorem half_eq_of_bits {f g : Fields16} (h : ∀ k < 16, f.toWord.getLsbD k = g.toWord.getLsbD k) :
    Encoded.half f.toWord = .half g.toWord := congrArg Encoded.half (BitVec.eq_of_getLsbD_eq h)

/-! ## The formats of 32-bit words (30_encoding R302 to R304)

Each lemma says of one format: what the decoder reads out of the fields, the encoder writes back into the same word. The
hypotheses are the fields that the decoder has found fixed. -/

section
variable {f : Fields32} {op : BitVec 7} {f3 : BitVec 3}

theorem encode_r_fields {f7 : BitVec 7} (hop : f.opcode = op) (hf3 : f.funct3 = f3) (hf7 : f.funct7 = f7) :
    Encode.r op f3 f7 f.rd f.rs1 f.rs2 = .word f.toWord := by
  subst hop hf3 hf7
  rfl

theorem encode_i_fields (hop : f.opcode = op) (hf3 : f.funct3 = f3) :
    Encode.i op f3 f.rd f.rs1 f.immI = .word f.toWord := by
  refine word_eq_of_bits fun k hk => ?_
  simp only [Fields32.toWord, Fields32.immI, hop, hf3, slice, BitVec.getLsbD_append, BitVec.getLsbD_extractLsb']
  interval_cases k <;> simp

theorem encode_s_fields (hop : f.opcode = op) (hf3 : f.funct3 = f3) :
    Encode.s op f3 f.rs1 f.rs2 f.immS = .word f.toWord := by
  refine word_eq_of_bits fun k hk => ?_
  simp only [Fields32.toWord, Fields32.immS, hop, hf3, slice, BitVec.getLsbD_append, BitVec.getLsbD_extractLsb']
  interval_cases k <;> simp

theorem encode_b_fields (hop : f.opcode = op) (hf3 : f.funct3 = f3) :
    Encode.b op f3 f.rs1 f.rs2 f.immB = .word f.toWord := by
  refine word_eq_of_bits fun k hk => ?_
  simp only [Fields32.toWord, Fields32.immB, hop, hf3, slice, BitVec.getLsbD_append, BitVec.getLsbD_extractLsb']
  interval_cases k <;> simp

theorem encode_u_fields (hop : f.opcode = op) : Encode.u op f.rd f.immU = .word f.toWord := by
  refine word_eq_of_bits fun k hk => ?_
  simp only [Fields32.toWord, Fields32.immU, hop, slice, BitVec.getLsbD_append, BitVec.getLsbD_extractLsb']
  interval_cases k <;> simp

theorem encode_j_fields (hop : f.opcode = op) : Encode.j op f.rd f.immJ = .word f.toWord := by
  refine word_eq_of_bits fun k hk => ?_
  simp only [Fields32.toWord, Fields32.immJ, hop, slice, BitVec.getLsbD_append, BitVec.getLsbD_extractLsb']
  interval_cases k <;> simp

theorem encode_shift6_fields {f6 : BitVec 6} (hop : f.opcode = op) (hf3 : f.funct3 = f3) (hf6 : slice f.funct7 1 6 = f6) :
    Encode.shift6 op f3 f6 f.rd f.rs1 f.shamt6 = .word f.toWord := by
  subst hf6
  refine word_eq_of_bits fun k hk => ?_
  simp only [Fields32.toWord, Fields32.shamt6, hop, hf3, slice, BitVec.getLsbD_append, BitVec.getLsbD_extractLsb']
  interval_cases k <;> simp

theorem encode_amo_fields {f5 : BitVec 5} (hop : f.opcode = 0x2f#7) (hf3 : f.funct3 = f3) (hf5 : slice f.funct7 2 5 = f5) :
    Encode.amo f3 f5 f.rd f.rs1 f.rs2 (slice f.funct7 1 1) (slice f.funct7 0 1) = .word f.toWord := by
  subst hf5
  refine word_eq_of_bits fun k hk => ?_
  simp only [Fields32.toWord, hop, hf3, slice, BitVec.getLsbD_append, BitVec.getLsbD_extractLsb']
  interval_cases k <;> simp

theorem encode_r4_fields {fmt : BitVec 2} (hop : f.opcode = op) (hfmt : slice f.funct7 0 2 = fmt) :
    Encode.r4 op fmt f.rd f.rs1 f.rs2 (slice f.funct7 2 5) f.funct3 = .word f.toWord := by
  subst hfmt
  refine word_eq_of_bits fun k hk => ?_
  simp only [Fields32.toWord, hop, slice, BitVec.getLsbD_append, BitVec.getLsbD_extractLsb']
  interval_cases k <;> simp

theorem encode_fence_fields (hop : f.opcode = op) (hf3 : f.funct3 = f3) :
    Encode.i op f3 f.rd f.rs1
        (slice f.funct7 3 4 ++ (slice f.funct7 0 3 ++ slice f.rs2 4 1 : BitVec 4) ++ slice f.rs2 0 4) = .word f.toWord := by
  refine word_eq_of_bits fun k hk => ?_
  simp only [Fields32.toWord, hop, hf3, slice, BitVec.getLsbD_append, BitVec.getLsbD_extractLsb']
  interval_cases k <;> simp

end

/-! ## The formats of 16-bit words (30_encoding R320, R321; 49_c_compressed) -/

section
variable {f : Fields16} {op : BitVec 2} {f3 : BitVec 3}

theorem encode_c_fields {b12 : BitVec 1} {b11 : BitVec 2} {r9 : BitVec 3} {b6 : BitVec 2} {r4 : BitVec 3}
    (hop : f.op = op) (hf3 : f.funct3 = f3) (hb12 : f.b12 = b12) (hb11 : f.b11 = b11) (hr9 : f.r9 = r9) (hb6 : f.b6 = b6)
    (hr4 : f.r4 = r4) : Encode.c op f3 b12 b11 r9 b6 r4 = .half f.toWord := by
  subst hop hf3 hb12 hb11 hr9 hb6 hr4
  rfl

theorem encode_ci_fields (hop : f.op = op) (hf3 : f.funct3 = f3) :
    Encode.ci op f3 f.rd f.immCI = .half f.toWord := by
  refine half_eq_of_bits fun k hk => ?_
  simp only [Fields16.toWord, Fields16.rd, Fields16.immCI, hop, hf3, slice, BitVec.getLsbD_append, BitVec.getLsbD_extractLsb']
  interval_cases k <;> simp

theorem encode_cr_fields {b12 : BitVec 1} (hop : f.op = 2#2) (hf3 : f.funct3 = 4#3) (hb12 : f.b12 = b12) :
    Encode.cr b12 f.rd f.rs2 = .half f.toWord := by
  refine half_eq_of_bits fun k hk => ?_
  simp only [Fields16.toWord, Fields16.rd, Fields16.rs2, hop, hf3, hb12, slice, BitVec.getLsbD_append, BitVec.getLsbD_extractLsb']
  interval_cases k <;> simp

theorem encode_clD_fields (hop : f.op = 0#2) (hf3 : f.funct3 = f3) :
    Encode.clD f3 f.r4 f.r9 f.immD = .half f.toWord := by
  refine half_eq_of_bits fun k hk => ?_
  simp only [Fields16.toWord, Fields16.immD, hop, hf3, slice, BitVec.getLsbD_append, BitVec.getLsbD_extractLsb']
  interval_cases k <;> simp

theorem encode_clW_fields (hop : f.op = 0#2) (hf3 : f.funct3 = f3) :
    Encode.clW f3 f.r4 f.r9 f.immW = .half f.toWord := by
  refine half_eq_of_bits fun k hk => ?_
  simp only [Fields16.toWord, Fields16.immW, hop, hf3, slice, BitVec.getLsbD_append, BitVec.getLsbD_extractLsb']
  interval_cases k <;> simp

theorem encode_cb_fields (hop : f.op = 1#2) (hf3 : f.funct3 = f3) :
    Encode.cb f3 f.r9 f.immB = .half f.toWord := by
  refine half_eq_of_bits fun k hk => ?_
  simp only [Fields16.toWord, Fields16.immB, hop, hf3, slice, BitVec.getLsbD_append, BitVec.getLsbD_extractLsb']
  interval_cases k <;> simp

theorem encode_cbAlu_fields {b11 : BitVec 2} (hop : f.op = 1#2) (hf3 : f.funct3 = 4#3) (hb11 : f.b11 = b11) :
    Encode.cbAlu b11 f.r9 f.immCI = .half f.toWord := by
  refine half_eq_of_bits fun k hk => ?_
  simp only [Fields16.toWord, Fields16.immCI, hop, hf3, hb11, slice, BitVec.getLsbD_append, BitVec.getLsbD_extractLsb']
  interval_cases k <;> simp

theorem encode_ca_fields {b12 : BitVec 1} {b6 : BitVec 2} (hop : f.op = 1#2) (hf3 : f.funct3 = 4#3) (hb12 : f.b12 = b12)
    (hb11 : f.b11 = 3#2) (hb6 : f.b6 = b6) : Encode.ca b12 b6 f.r9 f.r4 = .half f.toWord :=
  encode_c_fields hop hf3 hb12 hb11 rfl hb6 rfl

theorem encode_ldsp_fields (hop : f.op = 2#2) (hf3 : f.funct3 = f3) :
    Encode.ldsp f3 f.rd f.immLdsp = .half f.toWord := by
  refine half_eq_of_bits fun k hk => ?_
  simp only [Fields16.toWord, Fields16.rd, Fields16.immLdsp, hop, hf3, slice, BitVec.getLsbD_append, BitVec.getLsbD_extractLsb']
  interval_cases k <;> simp

theorem encode_sdsp_fields (hop : f.op = 2#2) (hf3 : f.funct3 = f3) :
    Encode.sdsp f3 f.rs2 f.immSdsp = .half f.toWord := by
  refine half_eq_of_bits fun k hk => ?_
  simp only [Fields16.toWord, Fields16.rs2, Fields16.immSdsp, hop, hf3, slice, BitVec.getLsbD_append, BitVec.getLsbD_extractLsb']
  interval_cases k <;> simp

theorem encode_cAddi4spn_fields (hop : f.op = 0#2) (hf3 : f.funct3 = 0#3) :
    encode (.cAddi4spn f.r4 f.immSpn) = .half f.toWord := by
  refine half_eq_of_bits fun k hk => ?_
  simp only [Fields16.toWord, Fields16.immSpn, hop, hf3, slice, BitVec.getLsbD_append, BitVec.getLsbD_extractLsb']
  interval_cases k <;> simp

/-- `C.ADDI16SP` fixes the whole register field (49_c_compressed R712), which the decoder's cut has in two parts. -/
theorem rd_eq_two (hrd : f.rd = 2#5) : f.b11 = 0#2 ∧ f.r9 = 2#3 := by
  have hcut : ∀ (b11 : BitVec 2) (r9 : BitVec 3), b11 ++ r9 = 2#5 → b11 = 0#2 ∧ r9 = 2#3 := by decide
  exact hcut f.b11 f.r9 hrd

theorem encode_cAddi16sp_fields (hop : f.op = 1#2) (hf3 : f.funct3 = 3#3) (hrd : f.rd = 2#5) :
    encode (.cAddi16sp f.imm16sp) = .half f.toWord := by
  obtain ⟨hb11, hr9⟩ := rd_eq_two hrd
  refine half_eq_of_bits fun k hk => ?_
  simp only [Fields16.toWord, Fields16.imm16sp, hop, hf3, hb11, hr9, slice, BitVec.getLsbD_append, BitVec.getLsbD_extractLsb']
  interval_cases k <;> simp

theorem encode_cJ_fields (hop : f.op = 1#2) (hf3 : f.funct3 = 5#3) :
    encode (.cJ f.immJ) = .half f.toWord := by
  refine half_eq_of_bits fun k hk => ?_
  simp only [Fields16.toWord, Fields16.immJ, hop, hf3, slice, BitVec.getLsbD_append, BitVec.getLsbD_extractLsb']
  interval_cases k <;> simp

theorem encode_cLwsp_fields (hop : f.op = 2#2) (hf3 : f.funct3 = 2#3) :
    encode (.cLwsp f.rd f.immLwsp) = .half f.toWord := by
  refine half_eq_of_bits fun k hk => ?_
  simp only [Fields16.toWord, Fields16.rd, Fields16.immLwsp, hop, hf3, slice, BitVec.getLsbD_append, BitVec.getLsbD_extractLsb']
  interval_cases k <;> simp

theorem encode_cSwsp_fields (hop : f.op = 2#2) (hf3 : f.funct3 = 6#3) :
    encode (.cSwsp f.rs2 f.immSwsp) = .half f.toWord := by
  refine half_eq_of_bits fun k hk => ?_
  simp only [Fields16.toWord, Fields16.rs2, Fields16.immSwsp, hop, hf3, slice, BitVec.getLsbD_append, BitVec.getLsbD_extractLsb']
  interval_cases k <;> simp

end

/-! ## The parts of the 32-bit decoder (30_encoding R305, R306) -/

section
variable {f : Fields32} {i : Instr}

theorem encodedAs_load (hop : f.opcode = 0x03#7) (h : Decode.load f = some i) : EncodedAs i (.word f.toWord) := by
  unfold Decode.load at h
  split at h
  case h_8 => cases h
  all_goals
    next hf3 => cases h; exact ⟨rfl, encode_i_fields hop hf3⟩

theorem encodedAs_store (hop : f.opcode = 0x23#7) (h : Decode.store f = some i) : EncodedAs i (.word f.toWord) := by
  unfold Decode.store at h
  split at h
  case h_5 => cases h
  all_goals
    next hf3 => cases h; exact ⟨rfl, encode_s_fields hop hf3⟩

theorem encodedAs_branch (hop : f.opcode = 0x63#7) (h : Decode.branch f = some i) : EncodedAs i (.word f.toWord) := by
  unfold Decode.branch at h
  split at h
  case h_7 => cases h
  all_goals
    next hf3 => cases h; exact ⟨rfl, encode_b_fields hop hf3⟩

theorem encodedAs_miscMem (hop : f.opcode = 0x0f#7) (h : Decode.miscMem f = some i) : EncodedAs i (.word f.toWord) := by
  unfold Decode.miscMem at h
  split at h
  case h_1 hf3 => cases h; exact ⟨rfl, encode_fence_fields hop hf3⟩
  case h_2 hf3 => cases h; exact ⟨rfl, encode_i_fields hop hf3⟩
  case h_3 => cases h

theorem encodedAs_loadFp (hop : f.opcode = 0x07#7) (h : Decode.loadFp f = some i) : EncodedAs i (.word f.toWord) := by
  unfold Decode.loadFp at h
  split at h
  case h_3 => cases h
  all_goals
    next hf3 => cases h; exact ⟨rfl, encode_i_fields hop hf3⟩

theorem encodedAs_storeFp (hop : f.opcode = 0x27#7) (h : Decode.storeFp f = some i) : EncodedAs i (.word f.toWord) := by
  unfold Decode.storeFp at h
  split at h
  case h_3 => cases h
  all_goals
    next hf3 => cases h; exact ⟨rfl, encode_s_fields hop hf3⟩

theorem encodedAs_jalr (hop : f.opcode = 0x67#7) (h : Decode.jalr f = some i) : EncodedAs i (.word f.toWord) := by
  unfold Decode.jalr at h
  split at h
  case h_1 hf3 => cases h; exact ⟨rfl, encode_i_fields hop hf3⟩
  case h_2 => cases h

theorem encodedAs_opImm (hop : f.opcode = 0x13#7) (h : Decode.opImm f = some i) : EncodedAs i (.word f.toWord) := by
  unfold Decode.opImm at h
  split at h
  case h_7 hf3 hf6 | h_8 hf3 hf6 | h_9 hf3 hf6 => cases h; exact ⟨rfl, encode_shift6_fields hop hf3 hf6⟩
  case h_10 => cases h
  all_goals
    next hf3 => cases h; exact ⟨rfl, encode_i_fields hop hf3⟩

theorem encodedAs_opImm32 (hop : f.opcode = 0x1b#7) (h : Decode.opImm32 f = some i) : EncodedAs i (.word f.toWord) := by
  unfold Decode.opImm32 at h
  split at h
  case h_1 hf3 => cases h; exact ⟨rfl, encode_i_fields hop hf3⟩
  case h_5 => cases h
  all_goals
    next hf3 hf7 => cases h; exact ⟨rfl, encode_r_fields hop hf3 hf7⟩

theorem encodedAs_op (hop : f.opcode = 0x33#7) (h : Decode.op f = some i) : EncodedAs i (.word f.toWord) := by
  unfold Decode.op at h
  split at h
  case h_19 => cases h
  all_goals
    next hf7 hf3 => cases h; exact ⟨rfl, encode_r_fields hop hf3 hf7⟩

theorem encodedAs_op32 (hop : f.opcode = 0x3b#7) (h : Decode.op32 f = some i) : EncodedAs i (.word f.toWord) := by
  unfold Decode.op32 at h
  split at h
  case h_11 => cases h
  all_goals
    next hf7 hf3 => cases h; exact ⟨rfl, encode_r_fields hop hf3 hf7⟩

/-- An `LR` with its zero `rs2` field. -/
theorem encode_lr_fields {f3 : BitVec 3} (hop : f.opcode = 0x2f#7) (hf3 : f.funct3 = f3) (hf5 : slice f.funct7 2 5 = 2#5)
    (hrs2 : f.rs2 = 0#5) :
    Encode.amo f3 2#5 f.rd f.rs1 0#5 (slice f.funct7 1 1) (slice f.funct7 0 1) = .word f.toWord :=
  hrs2 ▸ encode_amo_fields hop hf3 hf5

theorem encodedAs_amo (hop : f.opcode = 0x2f#7) (h : Decode.amo f = some i) : EncodedAs i (.word f.toWord) := by
  unfold Decode.amo at h
  split at h
  case h_1 hf3 hf5 | h_12 hf3 hf5 =>
    obtain ⟨hrs2, hi⟩ := Option.ite_none_right_eq_some.1 h
    cases hi
    exact ⟨rfl, encode_lr_fields hop hf3 hf5 hrs2⟩
  case h_23 => cases h
  all_goals
    next hf3 hf5 => cases h; exact ⟨rfl, encode_amo_fields hop hf3 hf5⟩

theorem encodedAs_madd (hop : f.opcode = 0x43#7) (h : Decode.madd f = some i) : EncodedAs i (.word f.toWord) := by
  unfold Decode.madd at h
  split at h
  case h_3 => cases h
  all_goals
    next hfmt => cases h; exact ⟨rfl, encode_r4_fields hop hfmt⟩

theorem encodedAs_msub (hop : f.opcode = 0x47#7) (h : Decode.msub f = some i) : EncodedAs i (.word f.toWord) := by
  unfold Decode.msub at h
  split at h
  case h_3 => cases h
  all_goals
    next hfmt => cases h; exact ⟨rfl, encode_r4_fields hop hfmt⟩

theorem encodedAs_nmsub (hop : f.opcode = 0x4b#7) (h : Decode.nmsub f = some i) : EncodedAs i (.word f.toWord) := by
  unfold Decode.nmsub at h
  split at h
  case h_3 => cases h
  all_goals
    next hfmt => cases h; exact ⟨rfl, encode_r4_fields hop hfmt⟩

theorem encodedAs_nmadd (hop : f.opcode = 0x4f#7) (h : Decode.nmadd f = some i) : EncodedAs i (.word f.toWord) := by
  unfold Decode.nmadd at h
  split at h
  case h_3 => cases h
  all_goals
    next hfmt => cases h; exact ⟨rfl, encode_r4_fields hop hfmt⟩

theorem encodedAs_opFpArith (hop : f.opcode = 0x53#7) (h : Decode.opFpArith f = some i) : EncodedAs i (.word f.toWord) := by
  unfold Decode.opFpArith at h
  split at h
  case h_9 => cases h
  all_goals
    next hf7 => cases h; exact ⟨rfl, encode_r_fields hop rfl hf7⟩

theorem encodedAs_opFpFunct3 (hop : f.opcode = 0x53#7) (h : Decode.opFpFunct3 f = some i) :
    EncodedAs i (.word f.toWord) := by
  unfold Decode.opFpFunct3 at h
  split at h
  case h_17 => cases h
  all_goals
    next hf7 hf3 => cases h; exact ⟨rfl, encode_r_fields hop hf3 hf7⟩

/-- An R-format word whose `rs2` field is fixed. -/
theorem encode_r_fields_rs2 {op f7 : BitVec 7} {f3 : BitVec 3} {rs2 : BitVec 5} (hop : f.opcode = op) (hf3 : f.funct3 = f3)
    (hf7 : f.funct7 = f7) (hrs2 : f.rs2 = rs2) : Encode.r op f3 f7 f.rd f.rs1 rs2 = .word f.toWord :=
  hrs2 ▸ encode_r_fields hop hf3 hf7

theorem encodedAs_opFpUnary (hop : f.opcode = 0x53#7) (h : Decode.opFpUnary f = some i) :
    EncodedAs i (.word f.toWord) := by
  unfold Decode.opFpUnary at h
  split at h
  case h_21 => cases h
  all_goals
    next hf7 hrs2 => cases h; exact ⟨rfl, encode_r_fields_rs2 hop rfl hf7 hrs2⟩

theorem encodedAs_opFpMove (hop : f.opcode = 0x53#7) (h : Decode.opFpMove f = some i) :
    EncodedAs i (.word f.toWord) := by
  unfold Decode.opFpMove at h
  split at h
  case h_7 => cases h
  all_goals
    next hf7 hrs2 hf3 => cases h; exact ⟨rfl, encode_r_fields_rs2 hop hf3 hf7 hrs2⟩

/-- OP-FP, by the group of rows that decoded the word. -/
theorem encodedAs_opFp (hop : f.opcode = 0x53#7) (h : Decode.opFp f = some i) : EncodedAs i (.word f.toWord) := by
  simp only [Decode.opFp, Option.orElse_eq_some] at h
  obtain harith | ⟨-, hfunct3 | ⟨-, hunary | ⟨-, hmove⟩⟩⟩ := h
  · exact encodedAs_opFpArith hop harith
  · exact encodedAs_opFpFunct3 hop hfunct3
  · exact encodedAs_opFpUnary hop hunary
  · exact encodedAs_opFpMove hop hmove

/-- A SYSTEM word whose register fields are all fixed. -/
theorem encode_system_fields {f7 : BitVec 7} {rs2 rs1 rd : BitVec 5} (hop : f.opcode = 0x73#7) (hf3 : f.funct3 = 0#3)
    (hf7 : f.funct7 = f7) (hrs2 : f.rs2 = rs2) (hrs1 : f.rs1 = rs1) (hrd : f.rd = rd) :
    Encode.r 0x73#7 0#3 f7 rd rs1 rs2 = .word f.toWord :=
  hrd ▸ hrs1 ▸ encode_r_fields_rs2 hop hf3 hf7 hrs2

theorem encodedAs_systemPriv (hop : f.opcode = 0x73#7) (hf3 : f.funct3 = 0#3) (h : Decode.systemPriv f = some i) :
    EncodedAs i (.word f.toWord) := by
  unfold Decode.systemPriv at h
  split at h
  case h_6 hf7 hrd => cases h; exact ⟨rfl, encode_system_fields hop hf3 hf7 rfl rfl hrd⟩
  case h_7 => cases h
  all_goals
    next hf7 hrs2 hrs1 hrd => cases h; exact ⟨rfl, encode_system_fields hop hf3 hf7 hrs2 hrs1 hrd⟩

theorem encodedAs_system (hop : f.opcode = 0x73#7) (h : Decode.system f = some i) : EncodedAs i (.word f.toWord) := by
  unfold Decode.system at h
  split at h
  case h_1 hf3 => exact encodedAs_systemPriv hop hf3 h
  case h_8 => cases h
  all_goals
    next hf3 => cases h; exact ⟨rfl, encode_i_fields hop hf3⟩

/-- The major opcode map: a 32-bit word that decodes is the word of its instruction. -/
theorem encodedAs_word32 (h : Decode.word32 f = some i) : EncodedAs i (.word f.toWord) := by
  unfold Decode.word32 at h
  split at h
  case h_1 hop => exact encodedAs_load hop h
  case h_2 hop => exact encodedAs_loadFp hop h
  case h_3 hop => exact encodedAs_miscMem hop h
  case h_4 hop => exact encodedAs_opImm hop h
  case h_5 hop => cases h; exact ⟨rfl, encode_u_fields hop⟩
  case h_6 hop => exact encodedAs_opImm32 hop h
  case h_7 hop => exact encodedAs_store hop h
  case h_8 hop => exact encodedAs_storeFp hop h
  case h_9 hop => exact encodedAs_amo hop h
  case h_10 hop => exact encodedAs_op hop h
  case h_11 hop => cases h; exact ⟨rfl, encode_u_fields hop⟩
  case h_12 hop => exact encodedAs_op32 hop h
  case h_13 hop => exact encodedAs_madd hop h
  case h_14 hop => exact encodedAs_msub hop h
  case h_15 hop => exact encodedAs_nmsub hop h
  case h_16 hop => exact encodedAs_nmadd hop h
  case h_17 hop => exact encodedAs_opFp hop h
  case h_18 hop => exact encodedAs_branch hop h
  case h_19 hop => exact encodedAs_jalr hop h
  case h_20 hop => cases h; exact ⟨rfl, encode_j_fields hop⟩
  case h_21 hop => exact encodedAs_system hop h
  case h_22 => cases h

end

/-! ## The parts of the 16-bit decoder (49_c_compressed R701 to R741) -/

section
variable {f : Fields16} {i : Instr}

/-- A row with constraints gives its instruction only if that is well formed (49_c_compressed R740). -/
theorem encodedAs_constrained {j : Instr} {w : Encoded} (h : Decode.constrained j = some i) (hj : encode j = w) :
    EncodedAs i w := by
  obtain ⟨hwf, hi⟩ := Option.ite_none_right_eq_some.1 h
  cases hi
  exact ⟨hwf, hj⟩

theorem encodedAs_quadrant0 (hop : f.op = 0#2) (h : Decode.quadrant0 f = some i) : EncodedAs i (.half f.toWord) := by
  unfold Decode.quadrant0 at h
  split at h
  case h_1 hf3 => exact encodedAs_constrained h (encode_cAddi4spn_fields hop hf3)
  case h_2 hf3 | h_4 hf3 | h_5 hf3 | h_7 hf3 => cases h; exact ⟨rfl, encode_clD_fields hop hf3⟩
  case h_3 hf3 | h_6 hf3 => cases h; exact ⟨rfl, encode_clW_fields hop hf3⟩
  case h_8 => cases h

theorem encodedAs_quadrant1Alu (hop : f.op = 1#2) (hf3 : f.funct3 = 4#3) (h : Decode.quadrant1Alu f = some i) :
    EncodedAs i (.half f.toWord) := by
  unfold Decode.quadrant1Alu at h
  split at h
  case h_1 hb11 | h_2 hb11 | h_3 hb11 => cases h; exact ⟨rfl, encode_cbAlu_fields hop hf3 hb11⟩
  case h_10 => cases h
  all_goals
    next hb11 hb12 hb6 => cases h; exact ⟨rfl, encode_ca_fields hop hf3 hb12 hb11 hb6⟩

/-- A CI-format word whose register field is fixed. -/
theorem encode_ci_fields_rd {op : BitVec 2} {f3 : BitVec 3} {rd : Reg} (hop : f.op = op) (hf3 : f.funct3 = f3)
    (hrd : f.rd = rd) : Encode.ci op f3 rd f.immCI = .half f.toWord := hrd ▸ encode_ci_fields hop hf3

theorem encodedAs_quadrant1 (hop : f.op = 1#2) (h : Decode.quadrant1 f = some i) : EncodedAs i (.half f.toWord) := by
  unfold Decode.quadrant1 at h
  split at h
  case h_1 hf3 =>
    split at h
    next hrd => cases h; exact ⟨rfl, encode_ci_fields_rd hop hf3 hrd⟩
    next hrd => cases h; exact ⟨bne_iff_ne.2 hrd, encode_ci_fields hop hf3⟩
  case h_2 hf3 => exact encodedAs_constrained h (encode_ci_fields hop hf3)
  case h_3 hf3 => cases h; exact ⟨rfl, encode_ci_fields hop hf3⟩
  case h_4 hf3 =>
    split at h
    next hrd => exact encodedAs_constrained h (encode_cAddi16sp_fields hop hf3 hrd)
    next => exact encodedAs_constrained h (encode_ci_fields hop hf3)
  case h_5 hf3 => exact encodedAs_quadrant1Alu hop hf3 h
  case h_6 hf3 => cases h; exact ⟨rfl, encode_cJ_fields hop hf3⟩
  case h_7 hf3 | h_8 hf3 => cases h; exact ⟨rfl, encode_cb_fields hop hf3⟩
  case h_9 => cases h

/-- A CR-format word whose register fields may be fixed. -/
theorem encode_cr_fields_regs {b12 : BitVec 1} {rd rs2 : Reg} (hop : f.op = 2#2) (hf3 : f.funct3 = 4#3) (hb12 : f.b12 = b12)
    (hrd : f.rd = rd) (hrs2 : f.rs2 = rs2) : Encode.cr b12 rd rs2 = .half f.toWord :=
  hrd ▸ hrs2 ▸ encode_cr_fields hop hf3 hb12

theorem encodedAs_quadrant2Jump (hop : f.op = 2#2) (hf3 : f.funct3 = 4#3) (h : Decode.quadrant2Jump f = some i) :
    EncodedAs i (.half f.toWord) := by
  unfold Decode.quadrant2Jump at h
  split at h
  case h_1 hb12 =>
    split at h
    next hrs2 => exact encodedAs_constrained h (encode_cr_fields_regs hop hf3 hb12 rfl hrs2)
    next hrs2 => cases h; exact ⟨bne_iff_ne.2 hrs2, encode_cr_fields hop hf3 hb12⟩
  case h_2 hne =>
    have hb12 : f.b12 = 1#1 := (BitVec.eq_zero_or_eq_one f.b12).resolve_left hne
    split at h
    next hrs2 =>
      split at h
      next hrd => cases h; exact ⟨rfl, encode_cr_fields_regs hop hf3 hb12 hrd hrs2⟩
      next hrd => cases h; exact ⟨bne_iff_ne.2 hrd, encode_cr_fields_regs hop hf3 hb12 rfl hrs2⟩
    next hrs2 => cases h; exact ⟨bne_iff_ne.2 hrs2, encode_cr_fields hop hf3 hb12⟩

theorem encodedAs_quadrant2 (hop : f.op = 2#2) (h : Decode.quadrant2 f = some i) : EncodedAs i (.half f.toWord) := by
  unfold Decode.quadrant2 at h
  split at h
  case h_1 hf3 => cases h; exact ⟨rfl, encode_ci_fields hop hf3⟩
  case h_2 hf3 => cases h; exact ⟨rfl, encode_ldsp_fields hop hf3⟩
  case h_3 hf3 => exact encodedAs_constrained h (encode_cLwsp_fields hop hf3)
  case h_4 hf3 => exact encodedAs_constrained h (encode_ldsp_fields hop hf3)
  case h_5 hf3 => exact encodedAs_quadrant2Jump hop hf3 h
  case h_6 hf3 | h_8 hf3 => cases h; exact ⟨rfl, encode_sdsp_fields hop hf3⟩
  case h_7 hf3 => cases h; exact ⟨rfl, encode_cSwsp_fields hop hf3⟩
  case h_9 => cases h

/-- The three quadrants: a 16-bit word that decodes is the word of its instruction. -/
theorem encodedAs_word16 (h : Decode.word16 f = some i) : EncodedAs i (.half f.toWord) := by
  unfold Decode.word16 at h
  split at h
  case h_1 hop => exact encodedAs_quadrant0 hop h
  case h_2 hop => exact encodedAs_quadrant1 hop h
  case h_3 hop => exact encodedAs_quadrant2 hop h
  case h_4 => cases h

end

/-! ## Words -/

/-- Settles O7: a word is put together from its fields, and each part of the decoder keeps them. -/
theorem encodeDecode : Obligations.EncodeDecode := by
  intro w i h
  cases w with
  | half w => rw [← Fields16.toWord_ofWord w]; exact encodedAs_word16 h
  | word w => rw [← Fields32.toWord_ofWord w]; exact encodedAs_word32 h

/-- Settles O8: closed words, decoded by evaluation. -/
theorem decodesWrittenWords : Obligations.DecodesWrittenWords := by
  unfold Obligations.DecodesWrittenWords
  decide

end Sys2Proof.Machine
end

section
/-! Family 40_rv64i_compute: the encoding and the result of every RV64I computation (40_rv64i_compute R401 to R430). The results
are stated over the integers, so each operation on words is first put in the form `BitVec.ofInt` or `BitVec.ofNat` of its value. -/

namespace Sys2Proof.Machine

open Sys2Proof

/-! ## A well-formed instruction and its word, by format -/

/-- One direction is enough: the decoder undoes the encoder. -/
theorem isWord_of_encode {w : BitVec 32} {i : Instr} (hi : i.WF) (h : encode i = .word w) : IsWord w i :=
  ⟨h ▸ decode_encode hi, h⟩

section
variable {i : Instr} {op : BitVec 7} {f3 : BitVec 3} {rd rs1 : Reg}

theorem isWord_r {f7 : BitVec 7} {rs2 : Reg} (hi : i.WF) (h : encode i = Encode.r op f3 f7 rd rs1 rs2) :
    IsWord (rWord f7 rs2 rs1 f3 rd op) i := by
  rw [rWord_fields]
  exact isWord_of_encode hi h

theorem isWord_i {imm : BitVec 12} (hi : i.WF) (h : encode i = Encode.i op f3 rd rs1 imm) :
    IsWord (iWord imm rs1 f3 rd op) i := by
  rw [iWord_fields]
  exact isWord_of_encode hi h

theorem isWord_u {imm : BitVec 20} (hi : i.WF) (h : encode i = Encode.u op rd imm) : IsWord (uWord imm rd op) i := by
  rw [uWord_fields]
  exact isWord_of_encode hi h

theorem isWord_shift6 {f6 sh : BitVec 6} (hi : i.WF) (h : encode i = Encode.shift6 op f3 f6 rd rs1 sh) :
    IsWord (shift6Word f6 sh rs1 f3 rd op) i := by
  rw [shift6Word_fields]
  exact isWord_of_encode hi h

end

/-- `writeX` of a value that the rule gives in other words. -/
theorem writesX_of_eq {i : Instr} {s : State} {len u v : Word} {rd : Reg} (h : exec i s = writeX len rd u s) (huv : u = v) :
    WritesX i s len rd v := huv ▸ writesX_of h

/-! ## Word operations as integer operations -/

/-- The sum of a word and a sign-extended value. -/
theorem add_sext64 {n : Nat} (x : Word) (v : BitVec n) : x + sext64 v = BitVec.ofInt 64 (x.toInt + v.toInt) := by
  rw [BitVec.ofInt_add, BitVec.ofInt_toInt, sext64, BitVec.signExtend]

theorem add_eq_ofInt (x y : Word) : x + y = BitVec.ofInt 64 (x.toInt + y.toInt) := by
  rw [BitVec.ofInt_add, BitVec.ofInt_toInt, BitVec.ofInt_toInt]

theorem sub_eq_ofInt (x y : Word) : x - y = BitVec.ofInt 64 (x.toInt - y.toInt) := by
  rw [Int.sub_eq_add_neg, BitVec.ofInt_add, BitVec.ofInt_neg, BitVec.ofInt_toInt, BitVec.ofInt_toInt, BitVec.sub_eq_add_neg]

theorem boolWord_slt (x y : Word) : boolWord (x.slt y) = if x.toInt < y.toInt then 1#64 else 0#64 := by
  rw [boolWord, BitVec.slt_eq_decide]
  simp only [decide_eq_true_eq]

theorem boolWord_ult (x y : Word) : boolWord (x.ult y) = if x.toNat < y.toNat then 1#64 else 0#64 := by
  rw [boolWord, BitVec.ult_eq_decide]
  simp only [decide_eq_true_eq]

theorem toInt_immI (imm : BitVec 12) : (immI imm).toInt = imm.toInt := BitVec.toInt_signExtend_of_le (by decide)

theorem shiftLeft_eq_ofNat {w : Nat} (x : BitVec w) (n : Nat) : x <<< n = BitVec.ofNat w (x.toNat * 2 ^ n) := by
  rw [← BitVec.shiftLeft_eq, BitVec.shiftLeft, Nat.shiftLeft_eq]

theorem ushiftRight_eq_ofNat {w : Nat} (x : BitVec w) (n : Nat) : x >>> n = BitVec.ofNat w (x.toNat / 2 ^ n) := by
  rw [← Nat.shiftRight_eq_div_pow, ← BitVec.toNat_ushiftRight, BitVec.ofNat_toNat, BitVec.setWidth_eq]

theorem sshiftRight_eq_ofInt {w : Nat} (x : BitVec w) (n : Nat) : x.sshiftRight n = BitVec.ofInt w (x.toInt / 2 ^ n) := by
  rw [BitVec.sshiftRight_eq, Int.shiftRight_eq_div_pow, Int.natCast_pow, Int.cast_ofNat_Int]

/-! ## The low 32 bits -/

theorem low32_eq_setWidth (x : Word) : low32 x = x.setWidth 32 := by
  apply BitVec.eq_of_toNat_eq
  rw [low32, slice, BitVec.extractLsb'_toNat, Nat.shiftRight_zero, BitVec.toNat_setWidth]

theorem low32_toNat (x : Word) : (low32 x).toNat = x.toNat % 2 ^ 32 := by
  rw [low32_eq_setWidth, BitVec.toNat_setWidth]

/-- The low 32 bits of an integer modulo `2 ^ 64` are the integer modulo `2 ^ 32`: a W form wraps at 32 bits. -/
theorem low32_ofInt (z : Int) : low32 (BitVec.ofInt 64 z) = BitVec.ofInt 32 z := by
  apply BitVec.eq_of_toNat_eq
  rw [low32_toNat, BitVec.toNat_ofInt, BitVec.toNat_ofInt]
  omega

theorem sextLow32_ofInt (z : Int) : sextLow32 (BitVec.ofInt 64 z) = (BitVec.ofInt 32 z).signExtend 64 :=
  congrArg sext64 (low32_ofInt z)

/-- The bits above 31 do not reach the result of a left shift. -/
theorem low32_shiftLeft (x : Word) (n : Nat) : low32 x <<< n = BitVec.ofNat 32 (x.toNat * 2 ^ n) := by
  rw [shiftLeft_eq_ofNat, low32_toNat]
  apply BitVec.eq_of_toNat_eq
  rw [BitVec.toNat_ofNat, BitVec.toNat_ofNat, Nat.mod_mul_mod]

theorem low32_ushiftRight (x : Word) (n : Nat) : low32 x >>> n = BitVec.ofNat 32 (x.toNat % 2 ^ 32 / 2 ^ n) := by
  rw [ushiftRight_eq_ofNat, low32_toNat]

theorem low32_sshiftRight (x : Word) (n : Nat) :
    (low32 x).sshiftRight n = BitVec.ofInt 32 ((x.setWidth 32).toInt / 2 ^ n) := by
  rw [sshiftRight_eq_ofInt, low32_eq_setWidth]

/-! ## The instructions -/

/-- Settles O12: each instruction is one `writeX`; its word by format, its value by the operation's lemma. -/
theorem immediateForms : Obligations.ImmediateForms := by
  refine ⟨fun s rd imm => ⟨?lui, ?auipc⟩,
    fun s rd rs1 imm sh => ⟨?addi, ?slti, ?sltiu, ?xori, ?ori, ?andi, ?slli, ?srli, ?srai⟩⟩
  case lui => exact ⟨isWord_u rfl rfl, writesX_of rfl⟩
  case auipc => exact ⟨isWord_u rfl rfl, writesX_of_eq rfl (add_sext64 s.pc (imm ++ 0#12))⟩
  case addi => exact ⟨isWord_i rfl rfl, writesX_of_eq rfl (add_sext64 (s.getX rs1) imm)⟩
  case slti =>
    have hlt := boolWord_slt (s.getX rs1) (immI imm)
    rw [toInt_immI] at hlt
    exact ⟨isWord_i rfl rfl, writesX_of_eq rfl hlt⟩
  case sltiu => exact ⟨isWord_i rfl rfl, writesX_of_eq rfl (boolWord_ult (s.getX rs1) (immI imm))⟩
  case xori | ori | andi => exact ⟨isWord_i rfl rfl, writesX_of rfl⟩
  case slli => exact ⟨isWord_shift6 rfl rfl, writesX_of_eq rfl (shiftLeft_eq_ofNat (s.getX rs1) _)⟩
  case srli => exact ⟨isWord_shift6 rfl rfl, writesX_of_eq rfl (ushiftRight_eq_ofNat (s.getX rs1) _)⟩
  case srai => exact ⟨isWord_shift6 rfl rfl, writesX_of_eq rfl (sshiftRight_eq_ofInt (s.getX rs1) _)⟩

/-- Settles O13: the R-format word, and the value by the operation's lemma. -/
theorem registerRegister : Obligations.RegisterRegister := by
  intro s rd rs1 rs2
  refine ⟨?add, ?sub, ?sll, ?slt, ?sltu, ?xor, ?srl, ?sra, ?or, ?and⟩
  case add => exact ⟨isWord_r rfl rfl, writesX_of_eq rfl (add_eq_ofInt (s.getX rs1) (s.getX rs2))⟩
  case sub => exact ⟨isWord_r rfl rfl, writesX_of_eq rfl (sub_eq_ofInt (s.getX rs1) (s.getX rs2))⟩
  case sll => exact ⟨isWord_r rfl rfl, writesX_of_eq rfl (shiftLeft_eq_ofNat (s.getX rs1) _)⟩
  case slt => exact ⟨isWord_r rfl rfl, writesX_of_eq rfl (boolWord_slt (s.getX rs1) (s.getX rs2))⟩
  case sltu => exact ⟨isWord_r rfl rfl, writesX_of_eq rfl (boolWord_ult (s.getX rs1) (s.getX rs2))⟩
  case srl => exact ⟨isWord_r rfl rfl, writesX_of_eq rfl (ushiftRight_eq_ofNat (s.getX rs1) _)⟩
  case sra => exact ⟨isWord_r rfl rfl, writesX_of_eq rfl (sshiftRight_eq_ofInt (s.getX rs1) _)⟩
  case xor | or | and => exact ⟨isWord_r rfl rfl, writesX_of rfl⟩

/-- An OP-IMM-32 word goes by its minor fields. -/
theorem decode_opImm32_word (f7 : BitVec 7) (rs2 rs1 : Reg) (f3 : BitVec 3) (rd : Reg) :
    decode (.word (rWord f7 rs2 rs1 f3 rd 0x1B#7)) = Decode.opImm32 ⟨f7, rs2, rs1, f3, rd, 0x1B#7⟩ := by
  rw [rWord_fields, decode_toWord]
  rfl

/-- Settles O14: sums are wrapped at 32 bits by `sextLow32_ofInt`, shifts are shifts of the low 32 bits. -/
theorem wordForms : Obligations.WordForms := by
  intro s rd rs1 rs2 imm sh
  refine ⟨?addiw, ?slliw, ?srliw, ?sraiw, ?addw, ?subw, ?sllw, ?srlw, ?sraw, ?bit25⟩
  case addiw =>
    have hsum := congrArg sextLow32 (add_sext64 (s.getX rs1) imm)
    exact ⟨isWord_i rfl rfl, writesX_of_eq rfl (hsum.trans (sextLow32_ofInt _))⟩
  case addw =>
    have hsum := congrArg sextLow32 (add_eq_ofInt (s.getX rs1) (s.getX rs2))
    exact ⟨isWord_r rfl rfl, writesX_of_eq rfl (hsum.trans (sextLow32_ofInt _))⟩
  case subw =>
    have hdiff := congrArg sextLow32 (sub_eq_ofInt (s.getX rs1) (s.getX rs2))
    exact ⟨isWord_r rfl rfl, writesX_of_eq rfl (hdiff.trans (sextLow32_ofInt _))⟩
  case slliw | sllw => exact ⟨isWord_r rfl rfl, writesX_of_eq rfl (congrArg sext64 (low32_shiftLeft (s.getX rs1) _))⟩
  case srliw | srlw => exact ⟨isWord_r rfl rfl, writesX_of_eq rfl (congrArg sext64 (low32_ushiftRight (s.getX rs1) _))⟩
  case sraiw | sraw => exact ⟨isWord_r rfl rfl, writesX_of_eq rfl (congrArg sext64 (low32_sshiftRight (s.getX rs1) _))⟩
  case bit25 => exact ⟨decode_opImm32_word .., decode_opImm32_word .., decode_opImm32_word ..⟩

end Sys2Proof.Machine
end

section
/-! Family 41_rv64i_control_transfer: the encoding, the target and the link of every jump and branch (41_rv64i_control_transfer
R451 to R458). An even offset is twice what the instruction word holds, and a comparison of words is one of their values. -/

namespace Sys2Proof.Machine

open Sys2Proof

/-! ## The J and B formats, and the reserved words under the JALR opcode -/

theorem isWord_j {i : Instr} {op : BitVec 7} {rd : Reg} {imm : BitVec 20} (hi : i.WF) (h : encode i = Encode.j op rd imm) :
    IsWord (jWord imm rd op) i := by
  rw [jWord_fields]
  exact isWord_of_encode hi h

theorem isWord_b {i : Instr} {op : BitVec 7} {f3 : BitVec 3} {rs1 rs2 : Reg} {imm : BitVec 12} (hi : i.WF)
    (h : encode i = Encode.b op f3 rs1 rs2 imm) : IsWord (bWord imm rs2 rs1 f3 op) i := by
  rw [bWord_fields]
  exact isWord_of_encode hi h

/-- A word with the JALR opcode goes by its `funct3`. -/
theorem decode_jalr_word (imm : BitVec 12) (rs1 : Reg) (f3 : BitVec 3) (rd : Reg) :
    decode (.word (iWord imm rs1 f3 rd 0x67#7)) = Decode.jalr ⟨slice imm 5 7, slice imm 0 5, rs1, f3, rd, 0x67#7⟩ := by
  rw [iWord_fields, decode_toWord]
  rfl

theorem decode_jalr_none {f : Fields32} (h : f.funct3 ≠ 0#3) : Decode.jalr f = none := by
  unfold Decode.jalr
  split
  · next h0 => exact absurd h0 h
  · rfl

/-! ## Targets -/

/-- An offset held in units of two bytes, as the J and B formats and their compressed forms hold it. -/
theorem add_sext64_even {n : Nat} (x : Word) (v : BitVec n) :
    x + sext64 (v ++ 0#1) = BitVec.ofInt 64 (x.toInt + 2 * v.toInt) := by
  rw [add_sext64, BitVec.toInt_append_zero, pow_one]

theorem jalrTarget_eq_ofNat (base offset : Word) :
    jalrTarget base offset = BitVec.ofNat 64 ((base + offset).toNat / 2 * 2) := by
  rw [jalrTarget]
  generalize base + offset = x
  have hshift : x &&& ~~~1#64 = x >>> 1 <<< 1 := by
    apply BitVec.eq_of_getLsbD_eq
    intro k hk
    rw [BitVec.getLsbD_and, BitVec.getLsbD_not, BitVec.getLsbD_one, BitVec.getLsbD_shiftLeft, BitVec.getLsbD_ushiftRight]
    cases k with
    | zero => simp
    | succ k => simp [hk, Nat.add_comm]
  have hhalf : (x >>> 1).toNat = x.toNat / 2 := by rw [BitVec.toNat_ushiftRight, Nat.shiftRight_eq_div_pow, pow_one]
  rw [hshift, shiftLeft_eq_ofNat, hhalf, pow_one]

/-- Both outcomes of a branch whose comparison says `p`. -/
theorem branch_goesTo {i : Instr} {s : State} {len off target : Word} {taken : Bool} {p : Prop}
    (h : exec i s = branch len taken off s) (hp : taken = true ↔ p) (htarget : s.pc + off = target) :
    (p → GoesTo i s target) ∧ (¬p → GoesTo i s (s.pc + len)) := by
  have hgoes := goesTo_of_branch h
  constructor
  · intro hyes
    rwa [if_pos (hp.mpr hyes), htarget] at hgoes
  · intro hno
    rwa [if_neg (mt hp.mp hno)] at hgoes

/-! ## Comparisons -/

theorem not_slt_iff_toInt_le (x y : Word) : (!x.slt y) = true ↔ y.toInt ≤ x.toInt := by
  rw [← BitVec.sle_eq_not_slt, BitVec.sle_iff_toInt_le]

theorem not_ult_iff_toNat_le (x y : Word) : (!x.ult y) = true ↔ y.toNat ≤ x.toNat := by
  rw [← BitVec.ule_eq_not_ult, BitVec.ule_iff_toNat_le]

/-! ## The instructions -/

/-- Settles O15: JAL and JALR are each one `jump`, whose target is computed before the link is written; a branch is one
`branch` on the words' comparison. -/
theorem jumpsAndBranches : Obligations.JumpsAndBranches := by
  refine ⟨fun s rd rs1 off imm => ⟨?jal, ?jalr, ?reserved⟩,
    fun s rs1 rs2 imm => ⟨?beq, ?bne, ?blt, ?bge, ?bltu, ?bgeu⟩⟩
  case jal => exact ⟨isWord_j rfl rfl, add_sext64_even s.pc off ▸ writesXAt_of_jump rfl⟩
  case jalr => exact ⟨isWord_i rfl rfl, jalrTarget_eq_ofNat (s.getX rs1) (immI imm) ▸ writesXAt_of_jump rfl⟩
  case reserved => exact fun f3 hf3 => (decode_jalr_word imm rs1 f3 rd).trans (decode_jalr_none hf3)
  case beq => exact ⟨isWord_b rfl rfl, branch_goesTo rfl beq_iff_eq (add_sext64_even s.pc imm)⟩
  case bne => exact ⟨isWord_b rfl rfl, branch_goesTo rfl bne_iff_ne (add_sext64_even s.pc imm)⟩
  case blt => exact ⟨isWord_b rfl rfl, branch_goesTo rfl BitVec.slt_iff_toInt_lt (add_sext64_even s.pc imm)⟩
  case bge => exact ⟨isWord_b rfl rfl, branch_goesTo rfl (not_slt_iff_toInt_le _ _) (add_sext64_even s.pc imm)⟩
  case bltu => exact ⟨isWord_b rfl rfl, branch_goesTo rfl BitVec.ult_iff_toNat_lt (add_sext64_even s.pc imm)⟩
  case bgeu => exact ⟨isWord_b rfl rfl, branch_goesTo rfl (not_ult_iff_toNat_le _ _) (add_sext64_even s.pc imm)⟩

end Sys2Proof.Machine
end

section
/-! Family 42_rv64i_load_store_fence: FENCE and FENCE.I only retire; WFI and SFENCE.VMA, and where they are illegal
(42_rv64i_load_store_fence R489, 48_privileged_system R662, R674, R675). -/

namespace Sys2Proof.Machine

open Sys2Proof

/-! ## Where an instruction is illegal -/

/-- An illegal instruction's trap value is its own word, extended with zeros (60_exceptions R811). -/
theorem traps_of_illegal {i : Instr} {s : State} {w : BitVec 32} (h : exec i s = illegal i s) (hw : IsWord w i) :
    Traps i s .illegalInstruction (w.setWidth 64) := by
  have hval : i.trapValue = w.setWidth 64 := congrArg Encoded.trapValue hw.2
  rw [Traps, h, illegal, hval]

theorem wfiAllowed_iff (s : State) : s.wfiAllowed = true ↔ s.priv = .machine ∨ s.tw = false := by
  rw [State.wfiAllowed, Bool.or_eq_true, beq_iff_eq, Bool.not_eq_true']

theorem sfenceAllowed_iff (s : State) :
    s.sfenceAllowed = true ↔ s.priv = .machine ∨ (s.priv = .supervisor ∧ s.tvm = false) := by
  cases hp : s.priv <;> simp [State.sfenceAllowed, hp]

theorem sfenceAllowed_eq_false_iff (s : State) :
    s.sfenceAllowed = false ↔ s.priv = .user ∨ (s.priv = .supervisor ∧ s.tvm = true) := by
  cases hp : s.priv <;> simp [State.sfenceAllowed, hp]

/-! ## WFI -/

theorem isWord_wfi : IsWord 0x10500073#32 .wfi := isWord_of_encode rfl rfl

/-- Where WFI is allowed it retires, and a hart with no enabled interrupt pending becomes idle. -/
theorem exec_wfi_of_allowed {s : State} (h : s.wfiAllowed = true) :
    exec .wfi s = .next { s.retire 4#64 with idle := if s.mip &&& s.mie = 0#64 then true else s.idle } := by
  have hidle : (s.idle || (s.mip &&& s.mie) == 0#64) = if s.mip &&& s.mie = 0#64 then true else s.idle := by
    by_cases hpend : s.mip &&& s.mie = 0#64 <;> simp [hpend]
  calc exec .wfi s = execWfi s := rfl
    _ = _ := by rw [execWfi, if_pos h, hidle]

theorem exec_wfi_of_not_allowed {s : State} (h : s.wfiAllowed = false) : exec .wfi s = illegal .wfi s :=
  if_neg (Bool.eq_false_iff.1 h)

/-! ## SFENCE.VMA -/

theorem isWord_sfenceVma (rs1 rs2 : Reg) : IsWord (rWord 0x09#7 rs2 rs1 0#3 0#5 0x73#7) (.sfenceVma rs1 rs2) :=
  isWord_r rfl rfl

theorem exec_sfenceVma_of_allowed {s : State} (rs1 rs2 : Reg) (h : s.sfenceAllowed = true) :
    exec (.sfenceVma rs1 rs2) s = .next (s.flushTlbs.retire 4#64) := if_pos h

theorem exec_sfenceVma_of_not_allowed {s : State} (rs1 rs2 : Reg) (h : s.sfenceAllowed = false) :
    exec (.sfenceVma rs1 rs2) s = illegal (.sfenceVma rs1 rs2) s := if_neg (Bool.eq_false_iff.1 h)

/-- A SYSTEM word with `funct3 = 000` goes by its other fields. -/
theorem decode_systemPriv_word (f7 : BitVec 7) (rs2 rs1 rd : Reg) :
    decode (.word (rWord f7 rs2 rs1 0#3 rd 0x73#7)) = Decode.systemPriv ⟨f7, rs2, rs1, 0#3, rd, 0x73#7⟩ := by
  rw [rWord_fields, decode_toWord]
  rfl

/-- Every row of `systemPriv` has `rd` fixed at zero. -/
theorem decode_systemPriv_none {f : Fields32} (h : f.rd ≠ 0#5) : Decode.systemPriv f = none := by
  unfold Decode.systemPriv
  split
  case h_7 => rfl
  all_goals
    next hrd => exact absurd hrd h

/-! ## The instructions -/

/-- Settles O22: the fences only retire; WFI and SFENCE.VMA are split by the condition under which they are allowed, and an
illegal one traps with its own word. -/
theorem fencesAndWaits : Obligations.FencesAndWaits := by
  refine ⟨fun s fm pred succ imm rs1 rd => ⟨?fence, ?fenceI⟩,
    fun s rs1 rs2 => ⟨⟨isWord_wfi, isWord_sfenceVma rs1 rs2⟩, ?wfi, ?wfiIllegal, ?sfence, ?sfenceIllegal, ?reserved⟩⟩
  case fence | fenceI => exact ⟨isWord_i rfl rfl, goesTo_of rfl⟩
  case wfi => exact fun h => exec_wfi_of_allowed ((wfiAllowed_iff s).2 h)
  case wfiIllegal =>
    intro hpriv htw
    have hno : s.wfiAllowed = false := by simp [State.wfiAllowed, hpriv, htw]
    exact traps_of_illegal (exec_wfi_of_not_allowed hno) isWord_wfi
  case sfence => exact fun h => exec_sfenceVma_of_allowed rs1 rs2 ((sfenceAllowed_iff s).2 h)
  case sfenceIllegal =>
    intro h
    have hno := (sfenceAllowed_eq_false_iff s).2 h
    exact traps_of_illegal (exec_sfenceVma_of_not_allowed rs1 rs2 hno) (isWord_sfenceVma rs1 rs2)
  case reserved => exact fun rd hrd => (decode_systemPriv_word 0x09#7 rs2 rs1 rd).trans (decode_systemPriv_none hrd)

end Sys2Proof.Machine
end

section
/-! Family 43_m_muldiv: the encoding and the result of every multiplication, division and remainder (43_m_muldiv R500 to R513).
The lemmas on products and on overflow hold for every width, so that each serves the 64-bit instruction and, through
`writesX_of_low32`, its W form. -/

namespace Sys2Proof.Machine

open Sys2Proof

/-! ## Products -/

theorem mul_eq_ofInt {w : Nat} (x y : BitVec w) : x * y = BitVec.ofInt w (x.toInt * y.toInt) := by
  rw [BitVec.ofInt_mul, BitVec.ofInt_toInt, BitVec.ofInt_toInt]

theorem mulHigh_natCast (m n : Nat) : mulHigh m n = BitVec.ofNat 64 (m * n / 2 ^ 64) := by
  rw [mulHigh, ← BitVec.ofInt_natCast]
  norm_cast

/-! ## Quotients -/

/-- All ones is -1 as a signed number (43_m_muldiv R505). -/
theorem allOnes_eq_ofInt (w : Nat) : BitVec.allOnes w = BitVec.ofInt w (-1) := by
  rw [BitVec.ofInt_neg, ← BitVec.neg_one_eq_allOnes]
  rfl

theorem divSigned_eq {w : Nat} (x y : BitVec w) :
    divSigned x y = if y = 0#w then BitVec.ofInt w (-1) else BitVec.ofInt w (x.toInt.tdiv y.toInt) := by
  rw [divSigned, allOnes_eq_ofInt]

theorem divUnsigned_eq {w : Nat} (x y : BitVec w) :
    divUnsigned x y = if y = 0#w then BitVec.ofNat w (2 ^ w - 1) else BitVec.ofNat w (x.toNat / y.toNat) := by
  rw [divUnsigned, BitVec.allOnes, BitVec.ofNatLT_eq_ofNat]

/-! ## Overflow: the least number divided by -1 (43_m_muldiv R500 (e)) -/

section
variable {w : Nat} (hw : 0 < w) (x : BitVec w)
include hw

theorem allOnes_ne_zero : BitVec.allOnes w ≠ 0#w := mt BitVec.allOnes_eq_zero_iff.1 hw.ne'

theorem divSigned_allOnes : divSigned x (BitVec.allOnes w) = -x := by
  rw [divSigned, if_neg (allOnes_ne_zero hw), BitVec.toInt_allOnes, if_pos hw, Int.tdiv_neg, Int.tdiv_one, BitVec.ofInt_neg,
    BitVec.ofInt_toInt]

theorem remSigned_allOnes : remSigned x (BitVec.allOnes w) = 0#w := by
  rw [remSigned, if_neg (allOnes_ne_zero hw), BitVec.toInt_allOnes, if_pos hw, Int.tmod_neg, Int.tmod_one]
  rfl

/-- The least number is its own negative. -/
theorem divSigned_intMin_allOnes : divSigned (BitVec.intMin w) (BitVec.allOnes w) = BitVec.intMin w := by
  rw [divSigned_allOnes hw, BitVec.neg_intMin]

end

/-! ## The W forms: an operation on the low 32 bits, sign-extended (43_m_muldiv R509 to R513) -/

/-- `writeX` of an operation on the low words, whose result the rule gives in other words. -/
theorem writesX_of_low32 {i : Instr} {s : State} {len x y v : Word} {rd : Reg} (f : BitVec 32 → BitVec 32 → BitVec 32)
    (h : exec i s = writeX len rd (sext64 (f (low32 x) (low32 y))) s) (hv : sext64 (f (x.setWidth 32) (y.setWidth 32)) = v) :
    WritesX i s len rd v := by
  rw [low32_eq_setWidth, low32_eq_setWidth] at h
  exact writesX_of_eq h hv

/-- A division of low words by zero gives -1 in all 64 bits. -/
theorem sext64_allOnes : sext64 (BitVec.allOnes 32) = BitVec.ofInt 64 (-1) := by decide

theorem sext64_divSigned (x y : BitVec 32) :
    sext64 (divSigned x y) =
      if y = 0#32 then BitVec.ofInt 64 (-1) else sext64 (BitVec.ofInt 32 (x.toInt.tdiv y.toInt)) := by
  rw [divSigned, apply_ite sext64, sext64_allOnes]

theorem sext64_divUnsigned (x y : BitVec 32) :
    sext64 (divUnsigned x y) =
      if y = 0#32 then BitVec.ofInt 64 (-1) else sext64 (BitVec.ofNat 32 (x.toNat / y.toNat)) := by
  rw [divUnsigned, apply_ite sext64, sext64_allOnes]

theorem sext64_remSigned (x y : BitVec 32) :
    sext64 (remSigned x y) = if y = 0#32 then sext64 x else sext64 (BitVec.ofInt 32 (x.toInt.tmod y.toInt)) :=
  apply_ite sext64 _ _ _

theorem sext64_remUnsigned (x y : BitVec 32) :
    sext64 (remUnsigned x y) = if y = 0#32 then sext64 x else sext64 (BitVec.ofNat 32 (x.toNat % y.toNat)) :=
  apply_ite sext64 _ _ _

/-! ## The instructions -/

/-- Settles O23: the R-format word, and the value by the operation's lemma; the overflow is the one of `divSigned` and
`remSigned` at width 64. -/
theorem multiplyDivide : Obligations.MultiplyDivide := by
  intro s rd rs1 rs2
  refine ⟨?mul, ?mulh, ?mulhsu, ?mulhu, ?div, ?divu, ?rem, ?remu, ?overflow⟩
  case mul => exact ⟨isWord_r rfl rfl, writesX_of_eq rfl (mul_eq_ofInt (s.getX rs1) (s.getX rs2))⟩
  case mulhu => exact ⟨isWord_r rfl rfl, writesX_of_eq rfl (mulHigh_natCast (s.getX rs1).toNat (s.getX rs2).toNat)⟩
  case div => exact ⟨isWord_r rfl rfl, writesX_of_eq rfl (divSigned_eq (s.getX rs1) (s.getX rs2))⟩
  case divu => exact ⟨isWord_r rfl rfl, writesX_of_eq rfl (divUnsigned_eq (s.getX rs1) (s.getX rs2))⟩
  case mulh | mulhsu | rem | remu => exact ⟨isWord_r rfl rfl, writesX_of rfl⟩
  case overflow =>
    intro hmin hneg
    have hdiv : divSigned (s.getX rs1) (s.getX rs2) = s.getX rs1 := by
      rw [hmin, hneg]
      exact divSigned_intMin_allOnes (w := 64) (by decide)
    have hrem : remSigned (s.getX rs1) (s.getX rs2) = 0#64 := by
      rw [hneg]
      exact remSigned_allOnes (w := 64) (by decide) _
    exact ⟨writesX_of_eq rfl hdiv, writesX_of_eq rfl hrem⟩

/-- Settles O24: the R-format word, and the operation of the 64-bit instruction at width 32, sign-extended. -/
theorem multiplyDivideWords : Obligations.MultiplyDivideWords := by
  intro s rd rs1 rs2
  refine ⟨?mulw, ?divw, ?divuw, ?remw, ?remuw, ?overflow⟩
  case mulw => exact ⟨isWord_r rfl rfl, writesX_of_low32 (· * ·) rfl (congrArg sext64 (mul_eq_ofInt _ _))⟩
  case divw => exact ⟨isWord_r rfl rfl, writesX_of_low32 divSigned rfl (sext64_divSigned _ _)⟩
  case divuw => exact ⟨isWord_r rfl rfl, writesX_of_low32 divUnsigned rfl (sext64_divUnsigned _ _)⟩
  case remw => exact ⟨isWord_r rfl rfl, writesX_of_low32 remSigned rfl (sext64_remSigned _ _)⟩
  case remuw => exact ⟨isWord_r rfl rfl, writesX_of_low32 remUnsigned rfl (sext64_remUnsigned _ _)⟩
  case overflow =>
    intro hmin hneg
    have hdiv : sext64 (divSigned ((s.getX rs1).setWidth 32) ((s.getX rs2).setWidth 32)) = 0xFFFFFFFF80000000#64 := by
      rw [hmin, hneg]
      exact congrArg sext64 (divSigned_intMin_allOnes (w := 32) (by decide))
    have hrem : sext64 (remSigned ((s.getX rs1).setWidth 32) ((s.getX rs2).setWidth 32)) = 0#64 := by
      rw [hneg]
      exact congrArg sext64 (remSigned_allOnes (w := 32) (by decide) _)
    exact ⟨writesX_of_low32 divSigned rfl hdiv, writesX_of_low32 remSigned rfl hrem⟩

end Sys2Proof.Machine
end

section
/-! Family 44_a_atomics: the page and access faults of a data access, atomics included (44_a_atomics R524; 20_memory R212, R240,
R241, R257). -/

namespace Sys2Proof.Machine

open Sys2Proof

/-! ## An access that faults -/

/-- The translation of the access raises `e`, or its address lies where the entry does not allow it; `s1` is the state left. An
atomic access also needs memory that can be read. -/
def AccessRefused (s : State) (a : DataAccess) (e : Exc) (s1 : State) : Prop :=
  translate s a.va a.acc = .raised e a.va s1 ∨
    (e = a.acc.accessFault ∧ ∃ pa : Word, translate s a.va a.acc = .ok pa s1 ∧
      ∀ en, findPma s1.cfg.pma pa.toNat a.size = some en →
        a.acc.flagOf en = false ∨ (a.atomic = true ∧ (en.kind ≠ .memory ∨ en.r = false)))

section
variable {s s1 : State} {va : Word} {n : Nat} {e : Exc} (hal : va.toNat % n = 0)
include hal

theorem memRead_refused (h : AccessRefused s ⟨.load, va, n, false⟩ e s1) : memRead s va n = .raised e va s1 := by
  rw [memRead, if_neg (not_not_intro hal)]
  rcases h with ht | ⟨rfl, pa, ht, hno⟩
  · rw [ht, Result.bind]
  · rw [ht, Result.bind]
    cases hen : findPma s1.cfg.pma pa.toNat n with
    | none => rfl
    | some en =>
      have hr : en.r = false := by simpa [Access.flagOf] using hno en hen
      exact if_pos hr

theorem memWrite_refused (h : AccessRefused s ⟨.store, va, n, false⟩ e s1) (v : Word) :
    memWrite s va n v = .raised e va s1 := by
  rw [memWrite, if_neg (not_not_intro hal)]
  rcases h with ht | ⟨rfl, pa, ht, hno⟩
  · rw [ht, Result.bind]
  · rw [ht, Result.bind]
    cases hen : findPma s1.cfg.pma pa.toNat n with
    | none => rfl
    | some en =>
      have hw : en.w = false := by simpa [Access.flagOf] using hno en hen
      exact if_pos hw

theorem atomicAddr_refused {acc : Access} (h : AccessRefused s ⟨acc, va, n, true⟩ e s1) (hacc : acc ≠ .fetch) :
    atomicAddr s va n acc = .raised e va s1 := by
  rw [atomicAddr, if_neg (not_not_intro hal)]
  rcases h with ht | ⟨rfl, pa, ht, hno⟩
  · rw [ht, Result.bind]
  · rw [ht, Result.bind]
    cases hen : findPma s1.cfg.pma pa.toNat n with
    | none => rfl
    | some en =>
      refine if_pos ?_
      rcases hno en hen with hflag | ⟨-, hkind | hr⟩
      · cases acc with
        | fetch => exact absurd rfl hacc
        | load => exact .inr (.inl hflag)
        | store => exact .inr (.inr ⟨rfl, hflag⟩)
      · exact .inl hkind
      · exact .inr (.inl hr)

end

/-- Each of the operations takes the exception of its access, in the state that the translation left. -/
theorem Performs.refused {s s1 : State} {a : DataAccess} {o : StepOutcome} {e : Exc} (h : Performs s a o)
    (hal : a.va.toNat % a.size = 0) (hno : AccessRefused s a e s1) : o = .next (s1.takeException e a.va) := by
  cases h with
  | loadX len n ext rd va => rw [Machine.loadX, memRead_refused hal hno]; rfl
  | loadF len n box rd va => rw [Machine.loadF, memRead_refused hal hno]; rfl
  | store len n va v => rw [storeMemory, memWrite_refused hal hno]; rfl
  | reserve n ext rd rs1 => rw [loadReserved, atomicAddr_refused hal hno nofun]; rfl
  | conditional n rd rs1 rs2 => rw [storeConditional, atomicAddr_refused hal hno nofun]; rfl
  | amo n ext f rd rs1 rs2 => rw [Machine.amo, atomicAddr_refused hal hno nofun]; rfl

/-- Settles O18: the instruction performs its access, which is refused by its translation or by the physical address map. -/
theorem dataAccessFaults : Obligations.DataAccessFaults := by
  constructor
  · intro i s s1 acc va tval n atomic e ha hfp hal ht
    obtain ⟨-, rfl, hkind⟩ := translate_raised ht
    exact ⟨(exec_performs ha hfp).refused hal (.inl ht), rfl, hkind⟩
  · intro i s s1 acc va pa n atomic ha hfp hal ht hno
    exact (exec_performs ha hfp).refused hal (.inr ⟨rfl, pa, ht, hno⟩)

end Sys2Proof.Machine
end

section
/-! Family 44_a_atomics: load-reserved and store-conditional (44_a_atomics R520 to R527, R537, R538). -/

namespace Sys2Proof.Machine

open Sys2Proof

/-! ## The atomic format -/

theorem isWord_amo {i : Instr} {f3 : BitVec 3} {f5 : BitVec 5} {rd rs1 rs2 : Reg} {aq rl : BitVec 1} (hi : i.WF)
    (h : encode i = Encode.amo f3 f5 rd rs1 rs2 aq rl) : IsWord (amoWord f5 aq rl rs2 rs1 f3 rd) i := by
  rw [amoWord_fields]
  exact isWord_of_encode hi h

/-- A word with the AMO opcode goes by its minor fields. -/
theorem decode_amo_word (f5 : BitVec 5) (aq rl : BitVec 1) (rs2 rs1 : Reg) (f3 : BitVec 3) (rd : Reg) :
    decode (.word (amoWord f5 aq rl rs2 rs1 f3 rd)) = Decode.amo ⟨f5 ++ aq ++ rl, rs2, rs1, f3, rd, 0x2F#7⟩ := by
  rw [amoWord_fields, decode_toWord]
  rfl

/-- A load-reserved has no second source: its `rs2` field is fixed at zero. -/
theorem decode_lr_none {f : Fields32} (hf5 : slice f.funct7 2 5 = 2#5) (hrs2 : f.rs2 ≠ 0#5) : Decode.amo f = none := by
  unfold Decode.amo
  split
  case h_1 | h_12 => exact if_neg hrs2
  case h_23 => rfl
  all_goals
    next hother => exact absurd (hf5.symm.trans hother) (by decide)

/-! ## Completing after a translation -/

theorem OnlyWalk.withReservation {s s1 : State} (h : OnlyWalk s s1) (r : Option Reservation) :
    OnlyWalk s { s1 with ilrsc := r } := h.trans rfl

/-- Writing `x[rd]` and retiring in a state that a translation left. -/
theorem setX_retire_of_onlyWalk {s u : State} (h : OnlyWalk s u) (rd : Reg) (v len : Word) :
    XBecomes rd v s ((u.setX rd v).retire len) ∧ RetiredAt (s.pc + len) s ((u.setX rd v).retire len) ∧
      OnlyX u ((u.setX rd v).retire len) := by
  obtain ⟨hzero, hrd, hother⟩ := setX_becomes u ((u.setX rd v).retire len) rd v rfl
  refine ⟨⟨hzero, hrd, fun r hr => (hother r hr).trans (h.getX r)⟩, ⟨?_, ?_⟩, ?_⟩
  · simp [h.pc]
  · simp [h.minstret]
  · rw [setX_only]; rfl

theorem OnlyX.after_store {s t : State} {a n : Nat} {v : Word} {r : Option Reservation}
    (h : OnlyX { s.storeMem a n v with ilrsc := r } t) : OnlyXStore s t := by
  rw [OnlyX] at h
  rw [OnlyXStore, h]
  rfl

/-! ## LR -/

theorem sextLow32_ofNat (v : Nat) : sextLow32 (BitVec.ofNat 64 v) = (BitVec.ofNat 32 v).signExtend 64 := by
  simpa only [BitVec.ofInt_natCast] using sextLow32_ofInt v

/-- The instruction completes as a load-reserved: it writes `v` to `x[rd]` and reserves the `n` bytes at `pa`. -/
def Reserves (i : Instr) (s s1 : State) (pa : Word) (n : Nat) (rd : Reg) (v : Word) : Prop :=
  ∃ t, exec i s = .next t ∧ XBecomes rd v s t ∧ RetiredAt (s.pc + 4#64) s t ∧ t.ilrsc = some ⟨pa, n⟩ ∧ SameBytes s1 t ∧
    OnlyX { s1 with ilrsc := t.ilrsc } t

theorem reserves_of {i : Instr} {s s1 : State} {pa : Word} {n v : Nat} {ext : Word → Word} {rd rs1 : Reg} {e : PmaEntry}
    (h : exec i s = loadReserved n ext rd rs1 s) (hr : Reaches s (s.getX rs1) n .load pa e s1) (hv : v < 256 ^ n)
    (hb : BytesAre s1 pa.toNat n v) : Reserves i s s1 pa n rd (ext (BitVec.ofNat 64 v)) := by
  have hload : s1.loadMem pa.toNat n = BitVec.ofNat 64 v := congrArg (BitVec.ofNat 64) (load_of_bytes hb hv)
  obtain ⟨hx, hret, honly⟩ := setX_retire_of_onlyWalk
    ((translate_onlyWalk hr.translated).withReservation (some ⟨pa, n⟩)) rd (ext (BitVec.ofNat 64 v)) 4#64
  refine ⟨_, ?_, hx, hret, by simp, fun a => by simp, by simpa using honly⟩
  rw [h, loadReserved, atomicAddr_reaches hr hr.allowed, ← hload]
  rfl

/-! ## SC -/

/-- The instruction completes as a store-conditional that stores `v`. -/
def StoresReserved (i : Instr) (s s1 : State) (pa : Word) (n : Nat) (rd : Reg) (v : Word) : Prop :=
  ∃ t, exec i s = .next t ∧ XBecomes rd 0#64 s t ∧ RetiredAt (s.pc + 4#64) s t ∧ BytesAre t pa.toNat n v.toNat ∧
    SameOutside s1 t pa.toNat n ∧ t.ilrsc = none ∧ OnlyXStore s1 t

/-- The instruction completes as a store-conditional that stores nothing. -/
def SkipsStore (i : Instr) (s s1 : State) (rd : Reg) : Prop :=
  ∃ t, exec i s = .next t ∧ XBecomes rd 1#64 s t ∧ RetiredAt (s.pc + 4#64) s t ∧ SameBytes s1 t ∧ t.ilrsc = none ∧
    OnlyX { s1 with ilrsc := none } t

section
variable {i : Instr} {s s1 : State} {pa : Word} {n : Nat} {rd rs1 rs2 : Reg} {e : PmaEntry}
  (h : exec i s = storeConditional n rd rs1 rs2 s) (hr : Reaches s (s.getX rs1) n .store pa e s1) (hre : e.r = true)
include h hr hre

theorem storesReserved_of (hm : s.mem.wf = true) (hres : s1.ilrsc = some ⟨pa, n⟩) :
    StoresReserved i s s1 pa n rd (s.getX rs2) := by
  have hwf := translate_wf hr.translated hm
  have hwalk := (translate_onlyWalk hr.translated).trans (OnlyWalk.storeMem s1 pa.toNat n (s.getX rs2))
  obtain ⟨hx, hret, honly⟩ := setX_retire_of_onlyWalk (hwalk.withReservation none) rd 0#64 4#64
  refine ⟨_, ?_, hx, hret, fun k hk => ?_, fun b hb => ?_, by simp, honly.after_store⟩
  · rw [h, storeConditional, atomicAddr_reaches hr hre, Result.bind, hres, beq_self_eq_true]
    rfl
  · simpa using storeMem_bytes hwf pa.toNat n (s.getX rs2) k hk
  · simpa using storeMem_outside hwf pa.toNat n (s.getX rs2) b hb

theorem skipsStore_of (hres : s1.ilrsc ≠ some ⟨pa, n⟩) : SkipsStore i s s1 rd := by
  obtain ⟨hx, hret, honly⟩ := setX_retire_of_onlyWalk
    ((translate_onlyWalk hr.translated).withReservation none) rd 1#64 4#64
  refine ⟨_, ?_, hx, hret, fun a => by simp, by simp, honly⟩
  rw [h, storeConditional, atomicAddr_reaches hr hre, Result.bind, beq_false_of_ne hres]
  rfl

end

/-- Settles O25: `reserves_of` for both sizes of LR, and for SC one lemma on each side of the reservation. -/
theorem loadReservedStoreConditional : Obligations.LoadReservedStoreConditional := by
  refine ⟨fun s s1 rd rs1 aq rl pa e v => ⟨?lrW, ?lrD, ?reserved⟩,
    fun s s1 rd rs1 rs2 aq rl pa e hm => ⟨?scW, ?scD⟩⟩
  case lrW =>
    refine ⟨isWord_amo rfl rfl, fun hr hv hb => ?_⟩
    rw [← sextLow32_ofNat]
    exact reserves_of rfl hr hv hb
  case lrD => exact ⟨isWord_amo rfl rfl, fun hr hv hb => reserves_of (ext := id) rfl hr hv hb⟩
  case reserved =>
    exact fun rs2 f3 hrs2 => (decode_amo_word 2#5 aq rl rs2 rs1 f3 rd).trans (decode_lr_none (funct5_of_amo ..) hrs2)
  case scW | scD =>
    exact ⟨isWord_amo rfl rfl, fun hr hre => ⟨storesReserved_of rfl hr hre hm, skipsStore_of rfl hr hre⟩⟩

end Sys2Proof.Machine
end

section
/-! Family 45_f_single: the floating-point instructions, single and double: encodings, operands, where results and flags go, and
when an instruction is illegal (45_f_single R552 to R554, sections 3 to 8; 46_d_double sections 3 to 9). -/

namespace Sys2Proof.Machine

open Sys2Proof

/-! ## Rounded operations: one completion for each kind of result -/

theorem isWord_r4 {i : Instr} {op : BitVec 7} {fmt : BitVec 2} {rd rs1 rs2 rs3 : Reg} {rm : RmField} (hi : i.WF)
    (h : encode i = Encode.r4 op fmt rd rs1 rs2 rs3 rm) : IsWord (r4Word rs3 fmt rs2 rs1 rm rd op) i := by
  rw [r4Word_fields]
  exact isWord_of_encode hi h

section
variable {i : Instr} {s : State} {rd : Reg} {rm : RmField} {m : RoundingMode} {k : RoundingMode → StepOutcome}
  {r : Word × FFlags} (hfs : s.fs ≠ 0#2) (hm : s.roundingMode rm = some m) (h : exec i s = requireFpRm i rm s k)
include hfs hm h

/-- A rounded single-precision result is boxed (45_f_single R550). -/
theorem writesF_of_roundedS (hk : k m = writeFpS rd r s) : WritesF i s 4#64 rd (0xFFFFFFFF#32 ++ slice r.1 0 32) r.2 :=
  writesF_of ((h.trans (requireFpRm_on hfs hm k)).trans hk)

theorem writesF_of_roundedD (hk : k m = writeFp rd r s) : WritesF i s 4#64 rd r.1 r.2 :=
  writesF_of ((h.trans (requireFpRm_on hfs hm k)).trans hk)

theorem writesXFlags_of_rounded (hk : k m = writeFpX rd r s) : WritesXFlags i s 4#64 rd r.1 r.2 :=
  writesXFlags_of ((h.trans (requireFpRm_on hfs hm k)).trans hk)

end

/-- Settles O28: the R or R4 word, and one rounded result written to `f[rd]`. -/
theorem floatArith : Obligations.FloatArith := by
  refine ⟨fun s rd rs1 rs2 rs3 rm m hfs hm => ⟨?addS, ?subS, ?mulS, ?divS, ?sqrtS, ?maddS, ?msubS, ?nmsubS, ?nmaddS⟩,
    fun s rd rs1 rs2 rs3 rm m hfs hm => ⟨?addD, ?subD, ?mulD, ?divD, ?sqrtD, ?maddD, ?msubD, ?nmsubD, ?nmaddD⟩⟩
  case addS | subS | mulS | divS | sqrtS => exact ⟨isWord_r rfl rfl, writesF_of_roundedS hfs hm rfl rfl⟩
  case maddS | msubS | nmsubS | nmaddS => exact ⟨isWord_r4 rfl rfl, writesF_of_roundedS hfs hm rfl rfl⟩
  case addD | subD | mulD | divD | sqrtD => exact ⟨isWord_r rfl rfl, writesF_of_roundedD hfs hm rfl rfl⟩
  case maddD | msubD | nmsubD | nmaddD => exact ⟨isWord_r4 rfl rfl, writesF_of_roundedD hfs hm rfl rfl⟩

/-! ## Minimum, maximum, comparison, classification -/

theorem boxS_eq (v : Word) : boxS v = 0xFFFFFFFF#32 ++ v.setWidth 32 := by
  have h : slice v 0 32 = v.setWidth 32 := low32_eq_setWidth v
  rw [boxS, h]

section
variable {i : Instr} {s : State} {rd : Reg} {r : Word × FFlags} {v : Word} (hfs : s.fs ≠ 0#2)
include hfs

theorem writesF_of_fpS (h : exec i s = requireFp i s (writeFpS rd r s)) :
    WritesF i s 4#64 rd (0xFFFFFFFF#32 ++ r.1.setWidth 32) r.2 := by
  rw [← boxS_eq]
  exact writesF_of (h.trans (requireFp_on hfs _))

theorem writesF_of_fpD (h : exec i s = requireFp i s (writeFp rd r s)) : WritesF i s 4#64 rd r.1 r.2 :=
  writesF_of (h.trans (requireFp_on hfs _))

theorem writesXFlags_of_fp (h : exec i s = requireFp i s (writeFpX rd r s)) : WritesXFlags i s 4#64 rd r.1 r.2 :=
  writesXFlags_of (h.trans (requireFp_on hfs _))

theorem writesX_of_fp (h : exec i s = requireFp i s (writeX 4#64 rd v s)) : WritesX i s 4#64 rd v :=
  writesX_of (h.trans (requireFp_on hfs _))

end

/-- Settles O30: the R word; the minimum and the maximum go to `f[rd]`, the comparisons with flags and the class to `x[rd]`. -/
theorem minMaxCompareClass : Obligations.MinMaxCompareClass := by
  intro s rd rs1 rs2 hfs
  refine ⟨?minS, ?maxS, ?eqS, ?ltS, ?leS, ?classS, ?minD, ?maxD, ?eqD, ?ltD, ?leD, ?classD⟩
  case minS | maxS => exact ⟨isWord_r rfl rfl, writesF_of_fpS hfs rfl⟩
  case minD | maxD => exact ⟨isWord_r rfl rfl, writesF_of_fpD hfs rfl⟩
  case eqS | ltS | leS | eqD | ltD | leD => exact ⟨isWord_r rfl rfl, writesXFlags_of_fp hfs rfl⟩
  case classS | classD => exact ⟨isWord_r rfl rfl, writesX_of_fp hfs rfl⟩

/-- Settles O31: the R word with the other format or the integer type in place of `rs2`, and one rounded result written. -/
theorem floatConversions : Obligations.FloatConversions := by
  refine ⟨fun s rd rs1 rm m hfs hm => ⟨?ws, ?wus, ?ls, ?lus, ?wd, ?wud, ?ld, ?lud⟩,
    fun s rd rs1 rm m hfs hm => ⟨?sw, ?swu, ?sl, ?slu, ?dw, ?dwu, ?dl, ?dlu, ?sd, ?ds⟩⟩
  case ws | wus | ls | lus | wd | wud | ld | lud => exact ⟨isWord_r rfl rfl, writesXFlags_of_rounded hfs hm rfl rfl⟩
  case sw | swu | sl | slu | sd => exact ⟨isWord_r rfl rfl, writesF_of_roundedS hfs hm rfl rfl⟩
  case dw | dwu | dl | dlu | ds => exact ⟨isWord_r rfl rfl, writesF_of_roundedD hfs hm rfl rfl⟩

/-! ## Illegal floating-point instructions (45_f_single R552, R554) -/

/-- Every instruction of the unit asks for the unit before anything else. -/
theorem exec_requiresFp {i : Instr} (s : State) (h : needsFp i = true) : ∃ k, exec i s = requireFp i s k := by
  cases i
  case flw | fsw | fmaddS | fmsubS | fnmsubS | fnmaddS | faddS | fsubS | fmulS | fdivS | fsqrtS | fsgnjS | fsgnjnS | fsgnjxS
      | fminS | fmaxS | fcvtWS | fcvtWUS | fmvXW | feqS | fltS | fleS | fclassS | fcvtSW | fcvtSWU | fmvWX | fcvtLS | fcvtLUS
      | fcvtSL | fcvtSLU | fld | fsd | fmaddD | fmsubD | fnmsubD | fnmaddD | faddD | fsubD | fmulD | fdivD | fsqrtD | fsgnjD
      | fsgnjnD | fsgnjxD | fminD | fmaxD | fcvtSD | fcvtDS | feqD | fltD | fleD | fclassD | fcvtWD | fcvtWUD | fcvtDW
      | fcvtDWU | fcvtLD | fcvtLUD | fmvXD | fcvtDL | fcvtDLU | fmvDX | cFld | cFsd | cFldsp | cFsdsp =>
    exact ⟨_, rfl⟩
  all_goals exact absurd h Bool.false_ne_true

/-- Every instruction with a rounding-mode field asks for that mode. -/
theorem exec_requiresFpRm {i : Instr} (s : State) {rm : RmField} (h : rmOf i = some rm) :
    ∃ k, exec i s = requireFpRm i rm s k := by
  cases i
  case fmaddS | fmsubS | fnmsubS | fnmaddS | faddS | fsubS | fmulS | fdivS | fsqrtS | fcvtWS | fcvtWUS | fcvtSW | fcvtSWU
      | fcvtLS | fcvtLUS | fcvtSL | fcvtSLU | fmaddD | fmsubD | fnmsubD | fnmaddD | faddD | fsubD | fmulD | fdivD | fsqrtD
      | fcvtSD | fcvtDS | fcvtWD | fcvtWUD | fcvtDW | fcvtDWU | fcvtLD | fcvtLUD | fcvtDL | fcvtDLU =>
    cases h
    exact ⟨_, rfl⟩
  all_goals exact absurd h (Option.some_ne_none _).symm

theorem roundingMode_ofBits_iff (b : BitVec 3) :
    (b = 0#3 ↔ RoundingMode.ofBits b = some .rne) ∧ (b = 1#3 ↔ RoundingMode.ofBits b = some .rtz) ∧
      (b = 2#3 ↔ RoundingMode.ofBits b = some .rdn) ∧ (b = 3#3 ↔ RoundingMode.ofBits b = some .rup) ∧
      (b = 4#3 ↔ RoundingMode.ofBits b = some .rmm) ∧ (4 < b.toNat ↔ RoundingMode.ofBits b = none) := by
  revert b
  decide

theorem roundingMode_reserved {s : State} {rm : RmField}
    (h : rm = 5#3 ∨ rm = 6#3 ∨ (rm = 7#3 ∧ (s.frm = 5#3 ∨ s.frm = 6#3 ∨ s.frm = 7#3))) : s.roundingMode rm = none := by
  rw [State.roundingMode]
  rcases h with rfl | rfl | ⟨rfl, hfrm | hfrm | hfrm⟩
  · rfl
  · rfl
  all_goals rw [if_pos rfl, hfrm]; rfl

/-- Settles O32: with the unit off or no rounding mode, `requireFp` and `requireFpRm` answer the illegal-instruction trap. -/
theorem floatUnitEnable : Obligations.FloatUnitEnable := by
  refine ⟨fun i s hi => ⟨fun hoff => ?off, fun rm hrm hres => ?reserved⟩, fun s rm => roundingMode_ofBits_iff _⟩
  case off =>
    obtain ⟨k, hk⟩ := exec_requiresFp s hi
    exact hk.trans (requireFp_off hoff k)
  case reserved =>
    obtain ⟨k, hk⟩ := exec_requiresFpRm s hrm
    exact hk.trans (requireFpRm_reserved (roundingMode_reserved hres) k)

end Sys2Proof.Machine
end

section
/-! Family 45_f_single: rounding to an integer in a mode, as `RoundsTo` says it (45_f_single R552), and the model's integer
roundings `roundShift` and `roundAt`. -/

namespace Sys2Proof.Machine

open Sys2Proof

/-! ## Rounding to an integer -/

section
variable {rm : RoundingMode} {neg : Bool} {x : ℝ} {k : ℤ}

/-- Every mode answers one of the two neighbours. -/
theorem RoundsTo.mem_floor_ceil (h : RoundsTo rm neg x k) : ⌊x⌋ ≤ k ∧ k ≤ ⌈x⌉ := by
  have hfl := Int.floor_le x
  have hcl := Int.le_ceil x
  have hfc : ⌊x⌋ ≤ ⌈x⌉ := Int.floor_le_ceil x
  cases rm <;> simp only [RoundsTo] at h
  case rne =>
    obtain ⟨hlo, hhi⟩ := abs_le.1 h.1
    have h1 : (⌊x⌋ : ℝ) < k + 1 := by linarith
    have h2 : (k : ℝ) < ⌈x⌉ + 1 := by linarith
    norm_cast at h1 h2
    omega
  case rtz => omega
  case rdn => split at h <;> omega
  case rup => split at h <;> omega
  case rmm =>
    obtain ⟨hlo, hhi⟩ := Int.floor_eq_iff.1 h.symm
    have h1 : (⌊x⌋ : ℝ) < k + 1 := by linarith
    have h2 : (k : ℝ) < ⌈x⌉ + 1 := by linarith
    norm_cast at h1 h2
    omega

theorem RoundsTo.le_of_le (h : RoundsTo rm neg x k) {j : ℤ} (hj : x ≤ j) : k ≤ j :=
  h.mem_floor_ceil.2.trans (Int.ceil_le.2 hj)

theorem RoundsTo.ge_of_ge (h : RoundsTo rm neg x k) {j : ℤ} (hj : (j : ℝ) ≤ x) : j ≤ k :=
  (Int.le_floor.2 hj).trans h.mem_floor_ceil.1

/-- An integer rounds to itself, in every mode. -/
theorem roundsTo_intCast (rm : RoundingMode) (neg : Bool) (k : ℤ) : RoundsTo rm neg (k : ℝ) k := by
  have hhalf : ⌊(k : ℝ) + 1 / 2⌋ = k := by rw [Int.floor_eq_iff]; constructor <;> linarith
  cases rm
  case rmm => exact hhalf.symm
  all_goals simp [RoundsTo]

theorem RoundsTo.unique {j : ℤ} (h : RoundsTo rm neg x k) (h' : RoundsTo rm neg x j) : k = j := by
  cases rm <;> simp only [RoundsTo] at h h'
  case rne =>
    obtain ⟨hk, hkTie⟩ := h
    obtain ⟨hj, hjTie⟩ := h'
    obtain ⟨hk1, hk2⟩ := abs_le.1 hk
    obtain ⟨hj1, hj2⟩ := abs_le.1 hj
    rcases lt_trichotomy k j with hlt | heq | hgt
    · have hlt' : (k : ℝ) + 1 ≤ j := by exact_mod_cast hlt
      have hke := hkTie (by rw [show x - k = 1 / 2 by linarith]; norm_num)
      have hje := hjTie (by rw [show x - j = -(1 / 2) by linarith]; norm_num)
      have hjk : (j : ℝ) = k + 1 := by linarith
      norm_cast at hjk
      omega
    · exact heq
    · have hgt' : (j : ℝ) + 1 ≤ k := by exact_mod_cast hgt
      have hke := hkTie (by rw [show x - k = -(1 / 2) by linarith]; norm_num)
      have hje := hjTie (by rw [show x - j = 1 / 2 by linarith]; norm_num)
      have hjk : (k : ℝ) = j + 1 := by linarith
      norm_cast at hjk
      omega
  all_goals exact h.trans h'.symm

/-- Between two integers, `roundsUp` decides which of them the mode prescribes. -/
theorem roundsTo_roundsUp {n : ℤ} {o : Ordering} (hlo : (n : ℝ) < x) (hhi : x < n + 1) (ho : o.Compares (x - n) (1 / 2)) :
    RoundsTo rm neg x (if roundsUp rm neg (decide (n % 2 = 1)) o then n + 1 else n) := by
  have hfloor : ⌊x⌋ = n := Int.floor_eq_iff.2 ⟨hlo.le, hhi⟩
  have hceil : ⌈x⌉ = n + 1 := Int.ceil_eq_iff.2 ⟨by push_cast; linarith, by push_cast; linarith⟩
  cases rm
  case rtz => simp [RoundsTo, roundsUp, hfloor]
  case rdn | rup => cases neg <;> simp [RoundsTo, roundsUp, hfloor, hceil]
  case rmm =>
    simp only [RoundsTo, roundsUp]
    cases o <;> simp only [Ordering.Compares] at ho <;> symm
    case lt => exact Int.floor_eq_iff.2 ⟨by simp; linarith, by simp; linarith⟩
    case eq | gt => exact Int.floor_eq_iff.2 ⟨by simp; linarith, by simp; linarith⟩
  case rne =>
    simp only [RoundsTo, roundsUp]
    cases o <;> simp only [Ordering.Compares] at ho
    case lt =>
      have habs : |x - n| < 1 / 2 := by rw [abs_of_pos (by linarith)]; exact ho
      exact ⟨by simpa using habs.le, fun h => absurd h (by simpa using habs.ne)⟩
    case gt =>
      have habs : |x - (n + 1)| < 1 / 2 := by rw [abs_of_neg (by linarith)]; linarith
      exact ⟨by simpa using habs.le, fun h => absurd h (by simpa using habs.ne)⟩
    case eq =>
      have hx : x = n + 1 / 2 := by linarith
      rcases Int.emod_two_eq_zero_or_one n with hn | hn
      · simp [hn, hx]
      · simp [hn, hx]
        exact ⟨by norm_num [abs_of_neg], by omega⟩

end

/-- Two numbers that compare alike with every multiple of `u`. -/
def SameSide (u x x' : ℝ) : Prop := ∀ j : ℤ, ((j : ℝ) * u ≤ x ↔ j * u ≤ x') ∧ (x ≤ j * u ↔ x' ≤ j * u)

/-- Rounding to an integer only compares with halves of integers. -/
theorem RoundsTo.congr {rm : RoundingMode} {neg : Bool} {x x' : ℝ} {k : ℤ} (hs : SameSide (1 / 2) x x')
    (h : RoundsTo rm neg x k) : RoundsTo rm neg x' k := by
  have hlo := hs (2 * k - 2)
  have hlo2 := hs (2 * k - 1)
  have hmid := hs (2 * k)
  have hhi2 := hs (2 * k + 1)
  have hhi := hs (2 * k + 2)
  push_cast at hlo hlo2 hmid hhi2 hhi
  have hfloor : k = ⌊x⌋ → k = ⌊x'⌋ := fun hk => by
    obtain ⟨h1, h2⟩ := Int.floor_eq_iff.1 hk.symm
    refine (Int.floor_eq_iff.2 ⟨by linarith [hmid.1.1 (by linarith)], ?_⟩).symm
    by_contra hc
    linarith [hhi.1.2 (by linarith)]
  have hceil : k = ⌈x⌉ → k = ⌈x'⌉ := fun hk => by
    obtain ⟨h1, h2⟩ := Int.ceil_eq_iff.1 hk.symm
    refine (Int.ceil_eq_iff.2 ⟨?_, by linarith [hmid.2.1 (by linarith)]⟩).symm
    by_contra hc
    linarith [hlo.2.2 (by linarith)]
  cases rm <;> simp only [RoundsTo] at h ⊢
  case rtz => exact hfloor h
  case rdn => cases neg; exacts [hfloor h, hceil h]
  case rup => cases neg; exacts [hceil h, hfloor h]
  case rmm =>
    obtain ⟨h1, h2⟩ := Int.floor_eq_iff.1 h.symm
    refine (Int.floor_eq_iff.2 ⟨by linarith [hlo2.1.1 (by linarith)], ?_⟩).symm
    by_contra hc
    linarith [hhi2.1.2 (by linarith)]
  case rne =>
    obtain ⟨hk, htie⟩ := h
    obtain ⟨h1, h2⟩ := abs_le.1 hk
    refine ⟨abs_le.2 ⟨by linarith [hlo2.1.1 (by linarith)], by linarith [hhi2.2.1 (by linarith)]⟩, fun ht => htie ?_⟩
    rcases eq_or_eq_neg_of_abs_eq ht with he | he
    · rw [show x - k = 1 / 2 by linarith [hhi2.1.2 (by linarith), hhi2.2.2 (by linarith)]]; norm_num
    · rw [show x - k = -(1 / 2) by linarith [hlo2.1.2 (by linarith), hlo2.2.2 (by linarith)]]; norm_num

/-! ## The model's integer roundings -/

/-- An inexact quotient `q + r / 2^d`: twice the remainder against `2^d` is the fraction against one half. -/
theorem roundsTo_remainder (rm : RoundingMode) (neg : Bool) {q r d : Nat} (h0 : 0 < r) (h1 : r < 2 ^ d) :
    RoundsTo rm neg ((q : ℝ) + r / 2 ^ d)
      ((if roundsUp rm neg (decide (q % 2 = 1)) (compare (2 * r) (2 ^ d)) then q + 1 else q : ℕ) : ℤ) := by
  have hpos : (0 : ℝ) < 2 ^ d := by positivity
  have hf0 : (0 : ℝ) < r / 2 ^ d := div_pos (by exact_mod_cast h0) hpos
  have hf1 : (r : ℝ) / 2 ^ d < 1 := (div_lt_one hpos).2 (by exact_mod_cast h1)
  have hodd : decide ((q : ℤ) % 2 = 1) = decide (q % 2 = 1) := decide_eq_decide.2 (by omega)
  have hcmp : (compare (2 * r) (2 ^ d)).Compares ((q : ℝ) + r / 2 ^ d - (q : ℤ)) (1 / 2) := by
    have hc := (compare_iff (2 * r) (2 ^ d)).1 rfl
    rw [Int.cast_natCast, add_sub_cancel_left]
    generalize compare (2 * r) (2 ^ d) = o at hc ⊢
    cases o <;> simp only [Ordering.Compares] at hc ⊢
    case lt => rw [div_lt_div_iff₀ hpos two_pos]; exact_mod_cast (by omega)
    case eq => rw [div_eq_div_iff hpos.ne' two_ne_zero]; exact_mod_cast (by omega)
    case gt => rw [gt_iff_lt, div_lt_div_iff₀ two_pos hpos]; exact_mod_cast (by omega)
  have hround := roundsTo_roundsUp (rm := rm) (neg := neg) (by simpa using hf0) (by simpa using hf1) hcmp
  rw [hodd] at hround
  simpa [apply_ite] using hround

/-- `roundShift` rounds `m / 2^d`, and says whether that changed it. -/
theorem roundShift_spec (rm : RoundingMode) (neg : Bool) (m d : Nat) :
    RoundsTo rm neg ((m : ℝ) / 2 ^ d) ((roundShift rm neg m d).1 : ℕ) ∧
      ((roundShift rm neg m d).2 = true ↔ ((roundShift rm neg m d).1 : ℝ) ≠ (m : ℝ) / 2 ^ d) := by
  have hpos : (0 : ℝ) < 2 ^ d := by positivity
  have hsplit : (m : ℝ) / 2 ^ d = (m / 2 ^ d : ℕ) + (m % 2 ^ d : ℕ) / 2 ^ d := by
    rw [div_eq_iff hpos.ne', add_mul, div_mul_cancel₀ _ hpos.ne']
    exact_mod_cast (Nat.div_add_mod' m (2 ^ d)).symm
  have hlt : m % 2 ^ d < 2 ^ d := Nat.mod_lt _ (by positivity)
  rw [roundShift, hsplit]
  generalize m / 2 ^ d = q
  generalize m % 2 ^ d = r at hlt ⊢
  by_cases hr : r = 0
  · simpa [hr] using roundsTo_intCast rm neg q
  · have hf0 : (0 : ℝ) < r / 2 ^ d := div_pos (by exact_mod_cast Nat.pos_of_ne_zero hr) hpos
    have hf1 : (r : ℝ) / 2 ^ d < 1 := (div_lt_one hpos).2 (by exact_mod_cast hlt)
    rw [if_neg hr]
    refine ⟨roundsTo_remainder rm neg (Nat.pos_of_ne_zero hr) hlt, iff_of_true rfl ?_⟩
    split
    · push_cast; linarith
    · linarith

/-- `roundAt` rounds `m * 2^e` to a multiple of `2^q`, and says whether that changed it. -/
theorem roundAt_spec (rm : RoundingMode) (neg : Bool) (m : Nat) (e q : Int) :
    RoundsTo rm neg ((m : ℝ) * 2 ^ e / 2 ^ q) ((roundAt rm neg m e q).1 : ℕ) ∧
      ((roundAt rm neg m e q).2 = true ↔ ((roundAt rm neg m e q).1 : ℝ) * 2 ^ q ≠ (m : ℝ) * 2 ^ e) := by
  have hq : (2 : ℝ) ^ q ≠ 0 := by positivity
  rw [roundAt]
  by_cases h : q ≤ e
  · have hx : (m : ℝ) * 2 ^ e / 2 ^ q = ((m * 2 ^ (e - q).toNat : ℕ) : ℤ) := by
      rw [mul_div_assoc, ← zpow_sub₀ two_ne_zero, ← Int.toNat_of_nonneg (sub_nonneg.2 h)]
      push_cast
      rfl
    simp only [if_pos h]
    rw [hx]
    exact ⟨roundsTo_intCast _ _ _, by simpa [div_eq_iff hq, eq_comm] using hx⟩
  · have hx : (m : ℝ) * 2 ^ e / 2 ^ q = (m : ℝ) / 2 ^ (q - e).toNat := by
      rw [← zpow_natCast, Int.toNat_of_nonneg (by omega), zpow_sub₀ two_ne_zero]
      field_simp
    have hspec := roundShift_spec rm neg m (q - e).toNat
    rw [← hx] at hspec
    simp only [if_neg h]
    exact ⟨hspec.1, by rw [hspec.2, ne_eq, ne_eq, eq_div_iff hq]⟩

end Sys2Proof.Machine
end

section
/-! Family 45_f_single: packing the fields of a pattern and unpacking them again (45_f_single R557, 46_d_double R600). -/

namespace Sys2Proof.Machine

open Sys2Proof

/-! ## The formats -/

/-- The sign and the fields of a pattern stand side by side: fraction, exponent, sign. -/
theorem packFields_toNat {fmt : FloatFmt} {exp man : Nat} (neg : Bool) (hexp : exp ≤ fmt.maxField) (hman : man < 2 ^ fmt.manBits) :
    (packFields fmt neg exp man).toNat = (neg.toNat * 2 ^ fmt.expBits + exp) * 2 ^ fmt.manBits + man := by
  rw [packFields, BitVec.toNat_ofNat]
  cases fmt <;> cases neg <;>
    simp only [FloatFmt.maxField, FloatFmt.manBits, FloatFmt.expBits, FloatFmt.signPos] at * <;> norm_num at * <;> omega

theorem exp_lt_of_le_maxField {fmt : FloatFmt} {exp : Nat} (h : exp ≤ fmt.maxField) : exp < 2 ^ fmt.expBits :=
  lt_of_le_of_lt h (Nat.sub_lt (by positivity) one_pos)

section
variable {fmt : FloatFmt} {exp man : Nat} (neg : Bool) (hexp : exp ≤ fmt.maxField) (hman : man < 2 ^ fmt.manBits)
include hexp hman

theorem packFields_man : (packFields fmt neg exp man).toNat % 2 ^ fmt.manBits = man := by
  rw [packFields_toNat neg hexp hman, Nat.mul_add_mod_self_right, Nat.mod_eq_of_lt hman]

theorem packFields_div : (packFields fmt neg exp man).toNat / 2 ^ fmt.manBits = neg.toNat * 2 ^ fmt.expBits + exp := by
  rw [packFields_toNat neg hexp hman, Nat.add_comm, Nat.add_mul_div_right _ _ (by positivity), Nat.div_eq_of_lt hman,
    Nat.zero_add]

theorem packFields_exp : (packFields fmt neg exp man).toNat / 2 ^ fmt.manBits % 2 ^ fmt.expBits = exp := by
  rw [packFields_div neg hexp hman, Nat.mul_add_mod_self_right, Nat.mod_eq_of_lt (exp_lt_of_le_maxField hexp)]

theorem packFields_sign : (packFields fmt neg exp man).getLsbD fmt.signPos = neg := by
  rw [BitVec.getLsbD, Nat.testBit_eq_decide_div_mod_eq, FloatFmt.signPos, Nat.pow_add, ← Nat.div_div_eq_div_mul,
    packFields_div neg hexp hman, Nat.add_comm, Nat.add_mul_div_right _ _ (by positivity),
    Nat.div_eq_of_lt (exp_lt_of_le_maxField hexp)]
  cases neg <;> rfl

/-- Unpacking goes by the fields that were packed. -/
theorem unpack_packFields : unpack fmt (packFields fmt neg exp man) =
    if exp = fmt.maxField then if man = 0 then .inf neg else .nan (decide (man < 2 ^ (fmt.manBits - 1)))
    else if exp = 0 then .finite neg man fmt.minExp
    else .finite neg (2 ^ fmt.manBits + man) (fmt.minExp + (exp - 1 : Nat)) := by
  simp only [unpack, packFields_man neg hexp hman, packFields_exp neg hexp hman, packFields_sign neg hexp hman]

end

theorem unpack_packInf (fmt : FloatFmt) (neg : Bool) : unpack fmt (packInf fmt neg) = .inf neg := by
  rw [packInf, unpack_packFields neg le_rfl (by positivity), if_pos rfl, if_pos rfl]

/-- The significand and the exponent of a finite number of the format: `prec` bits, with fewer only at the least exponent. -/
structure IsFloat (fmt : FloatFmt) (m : Nat) (e : Int) : Prop where
  lt     : m < 2 ^ fmt.prec
  ge     : fmt.minExp ≤ e
  le     : e ≤ fmt.maxExp
  subnormal : m < 2 ^ fmt.manBits → e = fmt.minExp

theorem two_le_maxField (fmt : FloatFmt) : 2 ≤ fmt.maxField := by cases fmt <;> decide

theorem unpack_finite {fmt : FloatFmt} {w : Word} {n : Bool} {m : Nat} {e : Int} (h : unpack fmt w = .finite n m e) :
    IsFloat fmt m e := by
  have hpow : 2 ^ fmt.prec = 2 ^ fmt.manBits + 2 ^ fmt.manBits := by rw [FloatFmt.prec, pow_succ, mul_two]
  have hman : w.toNat % 2 ^ fmt.manBits < 2 ^ fmt.manBits := Nat.mod_lt _ (by positivity)
  have hexp : w.toNat / 2 ^ fmt.manBits % 2 ^ fmt.expBits < 2 ^ fmt.expBits := Nat.mod_lt _ (by positivity)
  have hmax : fmt.maxField = 2 ^ fmt.expBits - 1 := rfl
  have htwo := two_le_maxField fmt
  simp only [unpack] at h
  generalize w.toNat / 2 ^ fmt.manBits % 2 ^ fmt.expBits = exp at h hexp
  generalize w.toNat % 2 ^ fmt.manBits = man at h hman
  split at h
  · split at h <;> cases h
  · split at h <;> cases h
    · exact ⟨by omega, le_rfl, by rw [FloatFmt.maxExp]; omega, fun _ => rfl⟩
    · exact ⟨by omega, by omega, by rw [FloatFmt.maxExp]; omega, fun hlt => by omega⟩

/-- The exponent field of a finite number. -/
def FloatFmt.expField (fmt : FloatFmt) (m : Nat) (e : Int) : Nat := if m < 2 ^ fmt.manBits then 0 else (e - fmt.minExp).toNat + 1

theorem expField_lt_iff {fmt : FloatFmt} {m : Nat} {e : Int} (hge : fmt.minExp ≤ e) (hsub : m < 2 ^ fmt.manBits → e = fmt.minExp) :
    fmt.expField m e < fmt.maxField ↔ e ≤ fmt.maxExp := by
  have htwo := two_le_maxField fmt
  rw [FloatFmt.expField, FloatFmt.maxExp]
  split
  next h => have := hsub h; omega
  · omega

/-- Every finite number of the format is packed and unpacked unchanged. -/
theorem unpack_pack {fmt : FloatFmt} {m : Nat} {e : Int} (neg : Bool) (h : IsFloat fmt m e) :
    unpack fmt (packFields fmt neg (fmt.expField m e) (m % 2 ^ fmt.manBits)) = .finite neg m e := by
  have hpow : 2 ^ fmt.prec = 2 ^ fmt.manBits + 2 ^ fmt.manBits := by rw [FloatFmt.prec, pow_succ, mul_two]
  have hlt := (expField_lt_iff h.ge h.subnormal).2 h.le
  rw [unpack_packFields neg hlt.le (Nat.mod_lt _ (by positivity)), if_neg hlt.ne, FloatFmt.expField]
  by_cases hm : m < 2 ^ fmt.manBits
  · rw [if_pos hm, if_pos rfl, Nat.mod_eq_of_lt hm, h.subnormal hm]
  · have hge := h.ge
    have hmod : 2 ^ fmt.manBits + m % 2 ^ fmt.manBits = m := by
      rw [Nat.mod_eq_sub_mod (by omega), Nat.mod_eq_of_lt (by have := h.lt; omega)]
      omega
    rw [if_neg hm, if_neg (Nat.succ_ne_zero _), hmod, Nat.add_sub_cancel, Int.toNat_of_nonneg (by omega)]
    congr 1
    omega

theorem isFloat_largest (fmt : FloatFmt) : IsFloat fmt (2 ^ fmt.prec - 1) fmt.maxExp := by
  cases fmt <;> exact ⟨by decide, by decide, by decide, by decide⟩

/-! ## The sign bit -/

/-- The value with the sign flipped. -/
def FVal.flip : FVal → FVal
  | .nan s => .nan s
  | .inf n => .inf (!n)
  | .finite n m e => .finite (!n) m e

/-- The sign bit stands above the other fields. -/
theorem unpack_xor_signMask (fmt : FloatFmt) (w : Word) : unpack fmt (w ^^^ fmt.signMask) = (unpack fmt w).flip := by
  have hmask : fmt.signMask.toNat = 2 ^ fmt.expBits * 2 ^ fmt.manBits := by cases fmt <;> decide
  have hman : (w ^^^ fmt.signMask).toNat % 2 ^ fmt.manBits = w.toNat % 2 ^ fmt.manBits := by
    rw [BitVec.toNat_xor, hmask, Nat.xor_mod_two_pow, Nat.mul_mod_left, Nat.xor_zero]
  have hexp : (w ^^^ fmt.signMask).toNat / 2 ^ fmt.manBits % 2 ^ fmt.expBits = w.toNat / 2 ^ fmt.manBits % 2 ^ fmt.expBits := by
    rw [BitVec.toNat_xor, hmask, Nat.xor_div_two_pow, Nat.mul_div_cancel _ (by positivity), Nat.xor_mod_two_pow, Nat.mod_self,
      Nat.xor_zero]
  have hsign : (w ^^^ fmt.signMask).getLsbD fmt.signPos = !w.getLsbD fmt.signPos := by
    have hbit : fmt.signMask.getLsbD fmt.signPos = true := by cases fmt <;> decide
    rw [BitVec.getLsbD_xor, hbit, Bool.xor_true]
  simp only [unpack, hman, hexp, hsign]
  split
  · split <;> rfl
  · split <;> rfl

end Sys2Proof.Machine
end

section
/-! Family 45_f_single: `roundPack` rounds correctly (45_f_single R552, R553, R555). -/

namespace Sys2Proof.Machine

open Sys2Proof

/-! ## Powers of two -/

theorem magnitude_cast (m : Nat) (e : Int) : ((magnitude m e : ℚ) : ℝ) = m * 2 ^ e := by
  rw [magnitude]
  push_cast
  rfl

theorem natCast_two_pow_mul_zpow (n : Nat) (e : Int) : ((2 ^ n : ℕ) : ℝ) * 2 ^ e = 2 ^ (e + n) := by
  rw [zpow_add₀ two_ne_zero, zpow_natCast, mul_comm]
  push_cast
  rfl

theorem zpow_two_le {a b : ℤ} (h : a ≤ b) : (2 : ℝ) ^ a ≤ 2 ^ b := zpow_le_zpow_right₀ one_le_two h

theorem bitLength_bounds {m : Nat} (hm : m ≠ 0) : 2 ^ (bitLength m - 1) ≤ m ∧ m < 2 ^ bitLength m ∧ 0 < bitLength m := by
  rw [bitLength, if_neg hm, Nat.add_sub_cancel]
  exact ⟨Nat.log2_self_le hm, Nat.lt_log2_self, Nat.succ_pos _⟩

/-- The power of two at or below `m * 2^e`. -/
theorem zpow_le_magnitude {m : Nat} (hm : m ≠ 0) (e : Int) :
    (2 : ℝ) ^ (e + bitLength m - 1) ≤ m * 2 ^ e ∧ (m : ℝ) * 2 ^ e < 2 ^ (e + bitLength m) := by
  obtain ⟨hlo, hhi, hpos⟩ := bitLength_bounds hm
  constructor
  · rw [show e + bitLength m - 1 = e + (bitLength m - 1 : ℕ) by omega, ← natCast_two_pow_mul_zpow]
    exact mul_le_mul_of_nonneg_right (by exact_mod_cast hlo) (by positivity)
  · rw [← natCast_two_pow_mul_zpow]
    exact mul_lt_mul_of_pos_right (by exact_mod_cast hhi) (by positivity)

/-! ## Packing a rounded significand -/

/-- What `roundPack` does once the significand is rounded: a carry out of the significand goes to the exponent. -/
def packRounded (fmt : FloatFmt) (rm : RoundingMode) (neg : Bool) (r : Nat) (q : Int) (fl : FFlags) : Word × FFlags :=
  let carried := decide (r = 2 ^ fmt.prec)
  let man := if carried then 2 ^ fmt.manBits else r
  let exp := if man < 2 ^ fmt.manBits then 0 else (q - fmt.minExp).toNat + 1 + (if carried then 1 else 0)
  if fmt.maxField ≤ exp then (overflowResult fmt rm neg, FFlags.of ||| FFlags.nx)
  else (packFields fmt neg exp (man % 2 ^ fmt.manBits), fl)

/-- Whether `free * 2^q` is below the smallest normal number, as `roundPack` decides it. -/
def tinyAfter (fmt : FloatFmt) (free : Nat) (q : Int) : Bool :=
  decide (q < fmt.minExp) && !(decide (q = fmt.minExp - 1) && decide (free = 2 ^ fmt.prec))

/-- The flags of a finite result. -/
def inexactFlags (inexact tiny : Bool) : FFlags :=
  if inexact then (if tiny then FFlags.uf ||| FFlags.nx else FFlags.nx) else FFlags.none

theorem roundPack_eq (fmt : FloatFmt) (rm : RoundingMode) (neg : Bool) {m : Nat} (e : Int) (hm : m ≠ 0) {qFree q : Int}
    (hfree : qFree = e + bitLength m - fmt.prec) (hq : q = max qFree fmt.minExp) :
    roundPack fmt rm neg m e = packRounded fmt rm neg (roundAt rm neg m e q).1 q
      (inexactFlags (roundAt rm neg m e q).2 (tinyAfter fmt (roundAt rm neg m e qFree).1 qFree)) := by
  subst hq hfree
  rw [roundPack, if_neg hm]
  rfl

/-- A significand of at most `prec` bits, or the power of two above them, is a number `m * 2^e` with `e` unbounded above. -/
theorem packRounded_spec {fmt : FloatFmt} (rm : RoundingMode) (neg : Bool) {r : Nat} {q : Int} (fl : FFlags)
    (hr : r ≤ 2 ^ fmt.prec) (hq : fmt.minExp ≤ q) (hsub : r < 2 ^ fmt.manBits → q = fmt.minExp) :
    ∃ (m : Nat) (e : Int), m < 2 ^ fmt.prec ∧ fmt.minExp ≤ e ∧ (m < 2 ^ fmt.manBits → e = fmt.minExp) ∧
      (m : ℝ) * 2 ^ e = r * 2 ^ q ∧
      packRounded fmt rm neg r q fl =
        if e ≤ fmt.maxExp then (packFields fmt neg (fmt.expField m e) (m % 2 ^ fmt.manBits), fl)
        else (overflowResult fmt rm neg, FFlags.of ||| FFlags.nx) := by
  have hpow : 2 ^ fmt.manBits < 2 ^ fmt.prec := Nat.pow_lt_pow_right one_lt_two (Nat.lt_succ_self _)
  by_cases hc : r = 2 ^ fmt.prec
  · refine ⟨2 ^ fmt.manBits, q + 1, hpow, by omega, fun h => absurd h (lt_irrefl _), ?_, ?_⟩
    · rw [hc, natCast_two_pow_mul_zpow, natCast_two_pow_mul_zpow, FloatFmt.prec]
      push_cast
      ring_nf
    · have hexp : fmt.expField (2 ^ fmt.manBits) (q + 1) = (q - fmt.minExp).toNat + 1 + 1 := by
        rw [FloatFmt.expField, if_neg (lt_irrefl _)]; omega
      simp only [packRounded, hc, decide_true, if_true, if_neg (lt_irrefl (2 ^ fmt.manBits)), ← hexp, ← not_lt, ite_not,
        expField_lt_iff (by omega : fmt.minExp ≤ q + 1) (fun h => absurd h (lt_irrefl _))]
  · refine ⟨r, q, lt_of_le_of_ne hr hc, hq, hsub, rfl, ?_⟩
    have hexp : (if r < 2 ^ fmt.manBits then 0 else (q - fmt.minExp).toNat + 1 + 0) = fmt.expField r q := rfl
    simp only [packRounded, hc, decide_false, Bool.false_eq_true, if_false, hexp, ← not_lt, ite_not, expField_lt_iff hq hsub]

/-- Overflow is a matter of the exponent alone. -/
theorem largest_lt_iff {fmt : FloatFmt} {m : Nat} {e : Int} (hm : m < 2 ^ fmt.prec) (hsub : m < 2 ^ fmt.manBits → e = fmt.minExp) :
    (2 ^ fmt.prec - 1) * (2 : ℝ) ^ fmt.maxExp < m * 2 ^ e ↔ fmt.maxExp < e := by
  constructor
  · intro h
    by_contra hle
    have hm' : (m : ℝ) ≤ 2 ^ fmt.prec - 1 := by rw [le_sub_iff_add_le]; exact_mod_cast hm
    exact absurd h (not_lt.2 (mul_le_mul hm' (zpow_two_le (not_lt.1 hle)) (by positivity) (by linarith [m.cast_nonneg (α := ℝ)])))
  · intro h
    have hnormal : 2 ^ fmt.manBits ≤ m := by
      by_contra hlt
      have hmin := hsub (not_le.1 hlt)
      rw [hmin, FloatFmt.maxExp] at h
      omega
    calc (2 ^ fmt.prec - 1) * (2 : ℝ) ^ fmt.maxExp < 2 ^ fmt.prec * 2 ^ fmt.maxExp :=
          mul_lt_mul_of_pos_right (sub_one_lt _) (by positivity)
      _ = ((2 ^ fmt.manBits : ℕ) : ℝ) * 2 ^ (fmt.maxExp + 1) := by
          rw [natCast_two_pow_mul_zpow, FloatFmt.prec, ← zpow_natCast, ← zpow_add₀ two_ne_zero]
          push_cast
          ring_nf
      _ ≤ m * 2 ^ e := mul_le_mul (by exact_mod_cast hnormal) (zpow_two_le h) (by positivity) (by positivity)

theorem unpack_overflowResult (fmt : FloatFmt) (rm : RoundingMode) (neg : Bool) : unpack fmt (overflowResult fmt rm neg) =
    if rm = .rne ∨ rm = .rmm ∨ (rm = .rdn ∧ neg = true) ∨ (rm = .rup ∧ neg = false) then .inf neg
    else .finite neg (2 ^ fmt.prec - 1) fmt.maxExp := by
  have hlargest : unpack fmt (packFields fmt neg (fmt.maxField - 1) (2 ^ fmt.manBits - 1)) =
      .finite neg (2 ^ fmt.prec - 1) fmt.maxExp := by
    rw [← unpack_pack neg (isFloat_largest fmt)]
    cases fmt <;> rfl
  cases rm <;> cases neg <;> simp [overflowResult, unpack_packInf, hlargest]

/-! ## Rounding to the place of the format -/

section
variable {fmt : FloatFmt} {rm : RoundingMode} {neg : Bool} {x : ℝ} {lg q r : ℤ}

/-- The rounded significand has at most `prec` bits, or is the power of two above them. -/
theorem rounded_le (hx : x < 2 ^ (lg + 1)) (hq : lg + 1 - fmt.prec ≤ q) (hr : RoundsTo rm neg (x / 2 ^ q) r) :
    r ≤ (2 ^ fmt.prec : ℕ) := by
  refine hr.le_of_le ?_
  rw [div_le_iff₀ (by positivity), Int.cast_natCast, natCast_two_pow_mul_zpow]
  exact hx.le.trans (zpow_two_le (by omega))

/-- With `prec` bits kept, the rounded significand has them all. -/
theorem le_rounded (hx : 2 ^ lg ≤ x) (hr : RoundsTo rm neg (x / 2 ^ (lg + 1 - fmt.prec : ℤ)) r) :
    (2 ^ fmt.manBits : ℕ) ≤ r := by
  refine hr.ge_of_ge ?_
  rw [le_div_iff₀ (by positivity), Int.cast_natCast, natCast_two_pow_mul_zpow]
  rwa [show lg + 1 - fmt.prec + fmt.manBits = lg by rw [FloatFmt.prec]; push_cast; ring]

/-- Fewer bits are kept only at the least exponent. -/
theorem eq_minExp_of_rounded_lt (hx : 2 ^ lg ≤ x) (hq : q = max (lg + 1 - fmt.prec) fmt.minExp)
    (hr : RoundsTo rm neg (x / 2 ^ q) r) (hlt : r < (2 ^ fmt.manBits : ℕ)) : q = fmt.minExp := by
  by_contra hne
  rw [show q = lg + 1 - fmt.prec by omega] at hr
  exact absurd hlt (not_lt.2 (le_rounded hx hr))

end

theorem tinyAfter_iff {fmt : FloatFmt} {free : Nat} {q : Int} (hlo : 2 ^ fmt.manBits ≤ free) (hhi : free ≤ 2 ^ fmt.prec) :
    tinyAfter fmt free q = true ↔ (free : ℝ) * 2 ^ q < 2 ^ (fmt.minExp + fmt.manBits) := by
  have hup : (free : ℝ) * 2 ^ q ≤ 2 ^ (q + fmt.prec) := by
    rw [← natCast_two_pow_mul_zpow]
    exact mul_le_mul_of_nonneg_right (by exact_mod_cast hhi) (by positivity)
  have hprec : (fmt.prec : ℤ) = fmt.manBits + 1 := by rw [FloatFmt.prec]; push_cast; rfl
  simp only [tinyAfter, Bool.and_eq_true, decide_eq_true_eq, Bool.not_eq_true', Bool.and_eq_false_iff, decide_eq_false_iff_not]
  rcases lt_trichotomy q (fmt.minExp - 1) with hlt | heq | hgt
  · refine iff_of_true ⟨by omega, .inl hlt.ne⟩ (hup.trans_lt (zpow_lt_zpow_right₀ one_lt_two (by omega)))
  · have htop : (2 : ℝ) ^ (fmt.minExp + fmt.manBits) = (2 ^ fmt.prec : ℕ) * 2 ^ q := by
      rw [natCast_two_pow_mul_zpow, hprec, heq]
      ring_nf
    rw [htop, mul_lt_mul_iff_left₀ (by positivity), Nat.cast_lt]
    exact ⟨fun h => lt_of_le_of_ne hhi (h.2.resolve_left (not_not_intro heq)), fun h => ⟨by omega, .inr h.ne⟩⟩
  · refine iff_of_false (fun h => by omega) (not_lt.2 ?_)
    calc (2 : ℝ) ^ (fmt.minExp + fmt.manBits) ≤ 2 ^ (q + fmt.manBits) := zpow_two_le (by omega)
      _ = ((2 ^ fmt.manBits : ℕ) : ℝ) * 2 ^ q := (natCast_two_pow_mul_zpow ..).symm
      _ ≤ free * 2 ^ q := mul_le_mul_of_nonneg_right (by exact_mod_cast hlo) (by positivity)

/-- The core of the family: `roundPack` answers the correctly rounded number, with its flags. -/
theorem roundPack_correctlyRounded (fmt : FloatFmt) (rm : RoundingMode) (neg : Bool) {m : Nat} (e : Int) (hm : m ≠ 0) :
    CorrectlyRounded fmt rm neg (m * 2 ^ e) (roundPack fmt rm neg m e) := by
  obtain ⟨lg, hlg⟩ : ∃ lg : ℤ, lg = e + bitLength m - 1 := ⟨_, rfl⟩
  obtain ⟨q, hq⟩ : ∃ q : ℤ, q = max (lg + 1 - fmt.prec) fmt.minExp := ⟨_, rfl⟩
  obtain ⟨hlo, hhi⟩ := zpow_le_magnitude hm e
  rw [← hlg] at hlo
  rw [show e + bitLength m = lg + 1 by omega] at hhi
  obtain ⟨hr, hinexact⟩ := roundAt_spec rm neg m e q
  obtain ⟨hfree, -⟩ := roundAt_spec rm neg m e (lg + 1 - fmt.prec)
  have hpack := roundPack_eq fmt rm neg e hm (show lg + 1 - fmt.prec = _ by omega) hq
  generalize roundAt rm neg m e q = rq at hr hinexact hpack
  generalize (roundAt rm neg m e (lg + 1 - fmt.prec)).1 = free at hfree hpack
  have hfreeLo : 2 ^ fmt.manBits ≤ free := by exact_mod_cast le_rounded hlo hfree
  have hfreeHi : free ≤ 2 ^ fmt.prec := by exact_mod_cast rounded_le hhi le_rfl hfree
  have hrHi : rq.1 ≤ 2 ^ fmt.prec := by exact_mod_cast rounded_le hhi (hq ▸ le_max_left _ _) hr
  have hsub : rq.1 < 2 ^ fmt.manBits → q = fmt.minExp := fun hlt => eq_minExp_of_rounded_lt hlo hq hr (by exact_mod_cast hlt)
  obtain ⟨m', e', hm', hge, hsub', hval, hres⟩ := packRounded_spec rm neg
    (inexactFlags rq.2 (tinyAfter fmt free (lg + 1 - fmt.prec))) hrHi (hq ▸ le_max_right _ _) hsub
  refine ⟨lg, q, rq.1, free, hlo, hhi, hq, hr, hfree, ?_⟩
  simp only [Int.cast_natCast, ← hval, hpack, hres, ← tinyAfter_iff hfreeLo hfreeHi, ← not_lt (b := (m' : ℝ) * 2 ^ e'),
    largest_lt_iff hm' hsub']
  rw [← hval] at hinexact
  constructor
  · intro hover
    rw [if_neg (not_le.2 hover)]
    exact ⟨rfl, unpack_overflowResult ..⟩
  · intro hfin
    rw [if_pos (not_lt.1 hfin)]
    refine ⟨⟨m', e', unpack_pack neg ⟨hm', hge, not_lt.1 hfin, hsub'⟩, magnitude_cast ..⟩, fun heq => ?_, fun hne htiny => ?_,
      fun hne htiny => ?_⟩
    · have hexact : rq.2 = false := Bool.eq_false_iff.2 fun h => hinexact.1 h heq
      rw [hexact]
      rfl
    · rw [hinexact.2 hne, htiny]
      rfl
    · have hbig : tinyAfter fmt free (lg + 1 - fmt.prec) = false :=
        Bool.eq_false_iff.2 fun h => not_lt.2 htiny ((tinyAfter_iff hfreeLo hfreeHi).1 h)
      rw [hinexact.2 hne, hbig]
      rfl

/-! ## What a correctly rounded result can be -/

/-- An overflow, or a finite number with one of three sets of flags. -/
theorem CorrectlyRounded.cases {fmt : FloatFmt} {rm : RoundingMode} {neg : Bool} {x : ℝ} {out : Word × FFlags}
    (h : CorrectlyRounded fmt rm neg x out) :
    (out.2 = 0x05#5 ∧ unpack fmt out.1 =
        if rm = .rne ∨ rm = .rmm ∨ (rm = .rdn ∧ neg = true) ∨ (rm = .rup ∧ neg = false) then .inf neg
        else .finite neg (2 ^ fmt.prec - 1) fmt.maxExp) ∨
      ((∃ m e, unpack fmt out.1 = .finite neg m e) ∧ (out.2 = 0#5 ∨ out.2 = 0x03#5 ∨ out.2 = 0x01#5)) := by
  obtain ⟨lg, q, r, free, -, -, -, -, -, hover, hfin⟩ := h
  rcases lt_or_ge ((2 ^ fmt.prec - 1) * (2 : ℝ) ^ fmt.maxExp) (r * 2 ^ q) with hlt | hle
  · exact .inl (hover hlt)
  · obtain ⟨⟨m, e, hout, -⟩, hexact, htiny, hbig⟩ := hfin hle
    refine .inr ⟨⟨m, e, hout⟩, ?_⟩
    by_cases heq : (r : ℝ) * 2 ^ q = x
    · exact .inl (hexact heq)
    · exact .inr ((lt_or_ge _ _).imp (htiny heq) (hbig heq))

theorem roundPack_zero (fmt : FloatFmt) (rm : RoundingMode) (neg : Bool) (e : Int) :
    roundPack fmt rm neg 0 e = (packZero fmt neg, 0#5) := if_pos rfl

theorem unpack_packZero (fmt : FloatFmt) (neg : Bool) : unpack fmt (packZero fmt neg) = .finite neg 0 fmt.minExp := by
  have hpos : (0 : Nat) < fmt.maxField := (two_le_maxField fmt).trans_lt' two_pos
  rw [packZero, unpack_packFields neg hpos.le (by positivity), if_neg hpos.ne, if_pos rfl]

/-- Settles O34: `roundPack_correctlyRounded`, and the flags and kinds that a correctly rounded result can have. -/
theorem overflowAndUnderflow : Obligations.OverflowAndUnderflow := by
  intro fmt rm neg m e
  by_cases hm : m = 0
  · subst hm
    simp [roundPack_zero, unpack_packZero]
  · have hround := roundPack_correctlyRounded fmt rm neg e hm
    rw [← magnitude_cast] at hround
    refine ⟨fun _ => hround, fun h => absurd h hm, ?_⟩
    rcases hround.cases with ⟨hfl, hout⟩ | ⟨⟨m', e', hout⟩, hfl⟩
    · rw [hfl, hout]
      refine ⟨fun _ => rfl, nofun, rfl, rfl, fun n hn => ?_, fun b hb => ?_⟩
      · split at hn
        next hmode =>
          cases hn
          rcases hmode with rfl | rfl | ⟨rfl, rfl⟩ | ⟨rfl, rfl⟩ <;> simp
        next => cases hn
      · split at hb <;> cases hb
    · rw [hout]
      rcases hfl with hfl | hfl | hfl <;> simp [hfl]

end Sys2Proof.Machine
end

section
/-! Family 45_f_single: a finite rounded result is the representable number that the mode prescribes (45_f_single R552, R555). -/

namespace Sys2Proof.Machine

open Sys2Proof

/-! ## The mode's direction -/

/-- The modes that answer the number below, for a magnitude of this sign. -/
def RoundsDown (rm : RoundingMode) (neg : Bool) : Prop := rm = .rtz ∨ (rm = .rdn ∧ neg = false) ∨ (rm = .rup ∧ neg = true)

/-- The modes that answer the number above. -/
def RoundsUpward (rm : RoundingMode) (neg : Bool) : Prop := (rm = .rdn ∧ neg = true) ∨ (rm = .rup ∧ neg = false)

/-- The modes that do not answer infinity on overflow. -/
theorem roundsDown_of_not {rm : RoundingMode} {neg : Bool}
    (h : ¬(rm = .rne ∨ rm = .rmm ∨ (rm = .rdn ∧ neg = true) ∨ (rm = .rup ∧ neg = false))) : RoundsDown rm neg := by
  cases rm <;> cases neg <;> simp [RoundsDown] at h ⊢

section
variable {rm : RoundingMode} {neg : Bool} {x : ℝ} {k : ℤ} (h : RoundsTo rm neg x k)
include h

theorem RoundsTo.eq_floor (hd : RoundsDown rm neg) : k = ⌊x⌋ := by
  rcases hd with rfl | ⟨rfl, rfl⟩ | ⟨rfl, rfl⟩ <;> exact h

theorem RoundsTo.eq_ceil (hu : RoundsUpward rm neg) : k = ⌈x⌉ := by
  rcases hu with ⟨rfl, rfl⟩ | ⟨rfl, rfl⟩ <;> exact h

/-- The modes to nearest: `k` is within one half, and a tie goes to even or up. -/
theorem RoundsTo.nearest (hn : rm = .rne ∨ rm = .rmm) :
    |x - k| ≤ 1 / 2 ∧ (|x - k| = 1 / 2 → if rm = .rne then k % 2 = 0 else x < k) := by
  rcases hn with rfl | rfl
  · exact h
  · obtain ⟨hlo, hhi⟩ := Int.floor_eq_iff.1 (Eq.symm h)
    refine ⟨abs_le.2 ⟨by linarith, by linarith⟩, fun ht => ?_⟩
    rw [if_neg (by decide)]
    rcases eq_or_eq_neg_of_abs_eq ht with he | he <;> linarith

end

/-! ## The grid of representable numbers -/

/-- A representable number is a multiple of the last place `2^q` of the format at `2^lg`, or lies below `2^lg`, which then is
such a multiple. -/
theorem IsFloat.on_grid {fmt : FloatFmt} {m : Nat} {e lg q : ℤ} (h : IsFloat fmt m e)
    (hq : q = max (lg + 1 - fmt.prec) fmt.minExp) :
    (∃ j : ℤ, (m : ℝ) * 2 ^ e = j * 2 ^ q) ∨ ((m : ℝ) * 2 ^ e < 2 ^ lg ∧ ∃ i : ℤ, (2 : ℝ) ^ lg = i * 2 ^ q) := by
  have hge := h.ge
  rcases le_or_gt q e with hle | hlt
  · refine .inl ⟨m * 2 ^ (e - q).toNat, ?_⟩
    rw [Int.cast_mul, Int.cast_natCast, mul_assoc]
    push_cast
    rw [← zpow_natCast, Int.toNat_of_nonneg (by omega), ← zpow_add₀ two_ne_zero, Int.sub_add_cancel]
  · have hprec : 1 ≤ (fmt.prec : ℤ) := by rw [FloatFmt.prec]; omega
    refine .inr ⟨?_, 2 ^ (lg - q).toNat, ?_⟩
    · calc (m : ℝ) * 2 ^ e < (2 ^ fmt.prec : ℕ) * 2 ^ e := mul_lt_mul_of_pos_right (by exact_mod_cast h.lt) (by positivity)
        _ = 2 ^ (e + fmt.prec) := natCast_two_pow_mul_zpow ..
        _ ≤ 2 ^ lg := zpow_two_le (by omega)
    · push_cast
      rw [← zpow_natCast, Int.toNat_of_nonneg (by omega), ← zpow_add₀ two_ne_zero, Int.sub_add_cancel]

theorem eq_mul_pow_of_scaled {a b e q : ℤ} (hle : e ≤ q) (h : (a : ℝ) * 2 ^ e = b * 2 ^ q) : a = b * 2 ^ (q - e).toNat := by
  have hreal : (a : ℝ) = b * 2 ^ (q - e) := by
    rw [zpow_sub₀ two_ne_zero, ← mul_div_assoc, ← h, mul_div_cancel_right₀ _ (by positivity)]
  rw [← Int.toNat_of_nonneg (sub_nonneg.2 hle), zpow_natCast] at hreal
  exact_mod_cast hreal

/-- A number of the format that a rounded significand `k` stands for is stored with an even significand when `k` is even. -/
theorem IsFloat.even_of_rounded {fmt : FloatFmt} {m : Nat} {e q k : ℤ} (h : IsFloat fmt m e) (hk : k ≤ (2 ^ fmt.prec : ℕ))
    (hq : fmt.minExp ≤ q) (hval : (m : ℝ) * 2 ^ e = k * 2 ^ q) (heven : k % 2 = 0) : m % 2 = 0 := by
  rcases le_or_gt e q with hle | hlt
  · have hm : (m : ℤ) = k * 2 ^ (q - e).toNat := eq_mul_pow_of_scaled hle (by exact_mod_cast hval)
    have : (m : ℤ) % 2 = 0 := by rw [hm, Int.mul_emod, heven, zero_mul, Int.zero_emod]
    omega
  · have hnormal : 2 ^ fmt.manBits ≤ m := by
      by_contra hsub
      have := h.subnormal (not_le.1 hsub)
      omega
    have hk2 : k = m * 2 ^ (e - q).toNat := eq_mul_pow_of_scaled hlt.le (by exact_mod_cast hval.symm)
    have htwice : m * 2 ≤ 2 ^ fmt.manBits * 2 := by
      rw [← pow_succ, ← FloatFmt.prec]
      calc m * 2 ≤ m * 2 ^ (e - q).toNat := Nat.mul_le_mul_left m (Nat.le_self_pow (by omega) 2)
        _ ≤ 2 ^ fmt.prec := by rw [hk2] at hk; exact_mod_cast hk
    have hm : m = 2 ^ fmt.manBits := by omega
    rw [hm]
    cases fmt <;> decide

/-! ## Rounded numbers among the representable ones -/

/-- An integer within one half is a nearest one, and only one half allows another. -/
theorem nearest_int {x : ℝ} {k : ℤ} (h : |x - k| ≤ 1 / 2) (j : ℤ) :
    |x - k| ≤ |x - j| ∧ (j ≠ k → |x - j| = |x - k| → |x - k| = 1 / 2) := by
  by_cases hj : j = k
  · rw [hj]; exact ⟨le_rfl, fun hne => absurd rfl hne⟩
  · have hdist : (1 : ℝ) ≤ |(j : ℝ) - k| := by exact_mod_cast Int.one_le_abs (sub_ne_zero.2 hj)
    have htri : |(j : ℝ) - k| ≤ |x - k| + |x - j| := by
      rw [abs_sub_comm x j, add_comm]
      exact abs_sub_le (j : ℝ) x k
    exact ⟨by linarith, fun _ heq => by linarith⟩

section
variable {fmt : FloatFmt} {m : Nat} {e lg q k : ℤ} {x : ℝ} (hlo : (2 : ℝ) ^ lg ≤ x)
  (hq : q = max (lg + 1 - fmt.prec) fmt.minExp) (hp : IsFloat fmt m e)
include hlo hq hp

theorem IsFloat.le_floor (hx : (m : ℝ) * 2 ^ e ≤ x) : (m : ℝ) * 2 ^ e ≤ ⌊x / 2 ^ q⌋ * 2 ^ q := by
  have hpos : (0 : ℝ) < 2 ^ q := by positivity
  rcases hp.on_grid hq with ⟨j, hj⟩ | ⟨hlt, i, hi⟩
  · rw [hj] at hx ⊢
    exact mul_le_mul_of_nonneg_right (by exact_mod_cast Int.le_floor.2 ((le_div_iff₀ hpos).2 hx)) hpos.le
  · refine hlt.le.trans ?_
    rw [hi] at hlo ⊢
    exact mul_le_mul_of_nonneg_right (by exact_mod_cast Int.le_floor.2 ((le_div_iff₀ hpos).2 hlo)) hpos.le

theorem IsFloat.ceil_le (hx : x ≤ (m : ℝ) * 2 ^ e) : ⌈x / 2 ^ q⌉ * 2 ^ q ≤ (m : ℝ) * 2 ^ e := by
  have hpos : (0 : ℝ) < 2 ^ q := by positivity
  rcases hp.on_grid hq with ⟨j, hj⟩ | ⟨hlt, -⟩
  · rw [hj] at hx ⊢
    exact mul_le_mul_of_nonneg_right (by exact_mod_cast Int.ceil_le.2 ((div_le_iff₀ hpos).2 hx)) hpos.le
  · exact absurd (hlo.trans hx) (not_le.2 hlt)

theorem IsFloat.nearest (hk : |x / 2 ^ q - k| ≤ 1 / 2) :
    |k * 2 ^ q - x| ≤ |(m : ℝ) * 2 ^ e - x| ∧
      ((m : ℝ) * 2 ^ e ≠ k * 2 ^ q → |(m : ℝ) * 2 ^ e - x| = |k * 2 ^ q - x| → |x / 2 ^ q - k| = 1 / 2) := by
  have hpos : (0 : ℝ) < 2 ^ q := by positivity
  have hscale : ∀ y : ℝ, |y * 2 ^ q - x| = |x / 2 ^ q - y| * 2 ^ q := fun y => by
    rw [abs_sub_comm, ← abs_of_pos hpos, ← abs_mul, sub_mul, abs_of_pos hpos, div_mul_cancel₀ _ hpos.ne']
  rcases hp.on_grid hq with ⟨j, hj⟩ | ⟨hlt, i, hi⟩
  · obtain ⟨hle, htie⟩ := nearest_int hk j
    rw [hj, hscale, hscale]
    refine ⟨mul_le_mul_of_nonneg_right hle hpos.le, fun hne heq => htie (fun hjk => hne (by rw [hjk])) ?_⟩
    exact mul_right_cancel₀ hpos.ne' heq
  · have hcloser : |k * 2 ^ q - x| < |(m : ℝ) * 2 ^ e - x| := by
      calc |k * 2 ^ q - x| ≤ |i * 2 ^ q - x| := by
            rw [hscale, hscale]
            exact mul_le_mul_of_nonneg_right (nearest_int hk i).1 hpos.le
        _ < |(m : ℝ) * 2 ^ e - x| := by
            rw [← hi, abs_of_nonpos (by linarith), abs_of_nonpos (by linarith)]
            linarith
    exact ⟨hcloser.le, fun _ heq => absurd heq hcloser.ne'⟩

end

/-- A magnitude of the format is at most the largest one. -/
theorem IsFloat.le_largest {fmt : FloatFmt} {m : Nat} {e : ℤ} (h : IsFloat fmt m e) :
    (m : ℝ) * 2 ^ e ≤ (2 ^ fmt.prec - 1) * 2 ^ fmt.maxExp :=
  not_lt.1 fun hlt => absurd h.le (not_le.2 ((largest_lt_iff h.lt h.subnormal).1 hlt))

theorem Representable.isFloat {fmt : FloatFmt} {p : ℚ} (h : Representable fmt p) :
    ∃ m e, IsFloat fmt m e ∧ (p : ℝ) = m * 2 ^ e := by
  obtain ⟨w, m, e, hw, rfl⟩ := h
  exact ⟨m, e, unpack_finite hw, magnitude_cast m e⟩

/-! ## The result -/

/-- What `RoundingIsCorrect` says of the mode, the exact number `x`, the result `y` and its significand `r`, over the reals. -/
structure Prescribed (fmt : FloatFmt) (rm : RoundingMode) (neg : Bool) (x : ℝ) (r : Nat) (y : ℝ) : Prop where
  below   : RoundsDown rm neg → y ≤ x ∧ ∀ p : ℚ, Representable fmt p → (p : ℝ) ≤ x → (p : ℝ) ≤ y
  above   : RoundsUpward rm neg → x ≤ y ∧ ∀ p : ℚ, Representable fmt p → x ≤ p → y ≤ p
  nearest : rm = .rne ∨ rm = .rmm → ∀ p : ℚ, Representable fmt p → |y - x| ≤ |(p : ℝ) - x| ∧
    ((p : ℝ) ≠ y → |(p : ℝ) - x| = |y - x| → if rm = .rne then r % 2 = 0 else x < y)

section
variable {fmt : FloatFmt} {rm : RoundingMode} {neg : Bool} {x : ℝ} {r : Nat} {re lg q k : ℤ}

/-- A magnitude rounded to a multiple of the last place is the prescribed one. -/
theorem prescribed_of_roundsTo (hlo : (2 : ℝ) ^ lg ≤ x) (hhi : x < 2 ^ (lg + 1)) (hq : q = max (lg + 1 - fmt.prec) fmt.minExp)
    (hk : RoundsTo rm neg (x / 2 ^ q) k) (hfloat : IsFloat fmt r re) (hval : (r : ℝ) * 2 ^ re = k * 2 ^ q) :
    Prescribed fmt rm neg x r (k * 2 ^ q) := by
  have hpos : (0 : ℝ) < 2 ^ q := by positivity
  refine ⟨fun hd => ?_, fun hu => ?_, fun hn p hp => ?_⟩
  · rw [hk.eq_floor hd]
    refine ⟨(le_div_iff₀ hpos).1 (Int.floor_le _), fun p hp hx => ?_⟩
    obtain ⟨m, e, hm, hpe⟩ := hp.isFloat
    rw [hpe] at hx ⊢
    exact hm.le_floor hlo hq hx
  · rw [hk.eq_ceil hu]
    refine ⟨(div_le_iff₀ hpos).1 (Int.le_ceil _), fun p hp hx => ?_⟩
    obtain ⟨m, e, hm, hpe⟩ := hp.isFloat
    rw [hpe] at hx ⊢
    exact hm.ceil_le hlo hq hx
  · obtain ⟨m, e, hm, hpe⟩ := hp.isFloat
    obtain ⟨hhalf, htie⟩ := hk.nearest hn
    rw [hpe]
    obtain ⟨hle, hties⟩ := hm.nearest hlo hq hhalf
    refine ⟨hle, fun hne heq => ?_⟩
    have hdir := htie (hties hne heq)
    split at hdir
    next hrne =>
      rw [if_pos hrne]
      exact hfloat.even_of_rounded (rounded_le hhi (hq ▸ le_max_left _ _) hk) (hq ▸ le_max_right _ _) hval hdir
    next hrne =>
      rw [if_neg hrne]
      exact (div_lt_iff₀ hpos).1 hdir

/-- Above the largest number, that number is the prescribed one in the modes that do not answer infinity. -/
theorem prescribed_largest (hmode : ¬(rm = .rne ∨ rm = .rmm ∨ (rm = .rdn ∧ neg = true) ∨ (rm = .rup ∧ neg = false)))
    (hbig : (2 ^ fmt.prec - 1) * (2 : ℝ) ^ fmt.maxExp < x) :
    Prescribed fmt rm neg x r ((2 ^ fmt.prec - 1) * 2 ^ fmt.maxExp) := by
  refine ⟨fun _ => ⟨hbig.le, fun p hp _ => ?_⟩, fun hup => ?_, fun hn => ?_⟩
  · obtain ⟨m, e, hm, hpe⟩ := hp.isFloat
    rw [hpe]
    exact hm.le_largest
  · exact absurd (.inr (.inr hup)) hmode
  · exact absurd (hn.imp id .inl) hmode

end

/-- A finite correctly rounded result has the sign of the exact number, is the number prescribed, and is inexact exactly when
it differs. -/
theorem CorrectlyRounded.finite {fmt : FloatFmt} {rm : RoundingMode} {neg n : Bool} {x : ℝ} {out : Word × FFlags} {r : Nat}
    {re : ℤ} (h : CorrectlyRounded fmt rm neg x out) (hout : unpack fmt out.1 = .finite n r re) :
    n = neg ∧ (out.2.getLsbD 0 = true ↔ (r : ℝ) * 2 ^ re ≠ x) ∧ Prescribed fmt rm neg x r (r * 2 ^ re) := by
  have hfloat := unpack_finite hout
  obtain ⟨lg, q, k, free, hlo, hhi, hq, hk, -, hover, hfin⟩ := h
  rw [hout] at hover hfin
  rcases lt_or_ge ((2 ^ fmt.prec - 1) * (2 : ℝ) ^ fmt.maxExp) (k * 2 ^ q) with hlt | hle
  · obtain ⟨hfl, hval⟩ := hover hlt
    split at hval
    · cases hval
    next hmode =>
      cases hval
      have hkx : (k : ℝ) * 2 ^ q ≤ x := by
        rw [hk.eq_floor (roundsDown_of_not hmode), ← le_div_iff₀ (by positivity)]
        exact Int.floor_le _
      have hbig := hlt.trans_le hkx
      push_cast [Nat.one_le_two_pow]
      exact ⟨rfl, iff_of_true (by rw [hfl]; rfl) hbig.ne, prescribed_largest hmode hbig⟩
  · obtain ⟨⟨m, e, hval, hmag⟩, hexact, htiny, hnormal⟩ := hfin hle
    cases hval
    rw [magnitude_cast] at hmag
    rw [hmag]
    refine ⟨rfl, ?_, prescribed_of_roundsTo hlo hhi hq hk hfloat hmag⟩
    by_cases heq : (k : ℝ) * 2 ^ q = x
    · rw [hexact heq]
      exact iff_of_false Bool.false_ne_true (not_not_intro heq)
    · refine iff_of_true ?_ heq
      rcases lt_or_ge ((free : ℝ) * 2 ^ (lg + 1 - fmt.prec)) (2 ^ (fmt.minExp + fmt.manBits)) with hf | hf
      · rw [htiny heq hf]; rfl
      · rw [hnormal heq hf]; rfl

/-- Settles O33: `roundPack` rounds correctly, so a finite result is the prescribed one. -/
theorem roundingIsCorrect : Obligations.RoundingIsCorrect := by
  intro fmt rm neg m e n r re hm x y out hout
  obtain ⟨hn, hinexact, hbelow, habove, hnearest⟩ := (roundPack_correctlyRounded fmt rm neg e hm).finite hout
  have hx : (x : ℝ) = m * 2 ^ e := magnitude_cast m e
  have hy : (y : ℝ) = r * 2 ^ re := magnitude_cast r re
  rw [← hx, ← hy] at hinexact hbelow habove hnearest
  exact ⟨hn, by exact_mod_cast hinexact, by exact_mod_cast hbelow, by exact_mod_cast habove, by exact_mod_cast hnearest⟩

end Sys2Proof.Machine
end

section
/-! Family 45_f_single: sums, products, quotients, roots and conversions to a format are the exact results, rounded once
(45_f_single R555, R569, R570, R583). -/

namespace Sys2Proof.Machine

open Sys2Proof

/-! ## Signs -/

section
variable {fmt : FloatFmt} {rm : RoundingMode} {neg zeroNeg : Bool} {x v : ℝ} {out : Word × FFlags}

/-- A sign and a correctly rounded magnitude. -/
theorem isRounded_of_magnitude (hx : 0 ≤ x) (hv : v = (if neg then -1 else 1) * x)
    (hpos : 0 < x → CorrectlyRounded fmt rm neg x out) (hzero : x = 0 → out = (packZero fmt zeroNeg, 0#5)) :
    IsRounded fmt rm v zeroNeg out := by
  cases neg
  · rw [if_neg Bool.false_ne_true, one_mul] at hv
    subst hv
    exact ⟨hpos, fun h => absurd hx (not_le.2 h), hzero⟩
  · rw [if_pos rfl, neg_one_mul] at hv
    subst hv
    rw [IsRounded, neg_neg, neg_eq_zero]
    exact ⟨fun h => by linarith, fun h => hpos (by linarith), hzero⟩

theorem IsRounded.of_ne_zero {b : Bool} (h : IsRounded fmt rm v b out) (hv : v ≠ 0) : IsRounded fmt rm v zeroNeg out := by
  obtain ⟨hpos, hneg, -⟩ := h
  exact ⟨hpos, hneg, fun h0 => absurd h0 hv⟩

end

theorem signedValue_cast (neg : Bool) (m : Nat) (e : Int) :
    ((signedValue neg m e : ℚ) : ℝ) = (if neg then -1 else 1) * (m * 2 ^ e) := by
  rw [signedValue, Rat.cast_mul, magnitude_cast]
  cases neg <;> simp

theorem isRounded_roundPack (fmt : FloatFmt) (rm : RoundingMode) (neg : Bool) (m : Nat) (e : Int) :
    IsRounded fmt rm ((signedValue neg m e : ℚ) : ℝ) neg (roundPack fmt rm neg m e) := by
  refine isRounded_of_magnitude (by positivity) (signedValue_cast neg m e) (fun hpos => ?_) fun h0 => ?_
  · refine roundPack_correctlyRounded fmt rm neg e fun hm => hpos.ne' ?_
    rw [hm, Nat.cast_zero, zero_mul]
  · have hm : m = 0 := Nat.cast_eq_zero.1 ((mul_eq_zero.1 h0).resolve_right (by positivity))
    rw [hm, roundPack_zero]

/-- An integer as a sign and a magnitude. -/
theorem signedValue_natAbs (t e : Int) : signedValue (decide (t < 0)) t.natAbs e = t * 2 ^ e := by
  rw [signedValue, magnitude, ← mul_assoc]
  congr 1
  rcases lt_or_ge t 0 with h | h
  · simp [h, abs_of_neg h]
  · simp [not_lt.2 h, abs_of_nonneg h]

theorem isRounded_roundPack_int (fmt : FloatFmt) (rm : RoundingMode) (t e : Int) :
    IsRounded fmt rm ((t * 2 ^ e : ℚ) : ℝ) false (roundPack fmt rm (decide (t < 0)) t.natAbs e) := by
  have h := isRounded_roundPack fmt rm (decide (t < 0)) t.natAbs e
  rw [signedValue_natAbs] at h
  by_cases ht : t = 0
  · rwa [decide_eq_false (by omega : ¬t < 0)] at h ⊢
  · exact h.of_ne_zero (by positivity)

/-! ## Sums -/

theorem scaled_mul_zpow (neg : Bool) (m : Nat) {e e0 : Int} (h : e0 ≤ e) :
    (scaled neg m e e0 : ℚ) * 2 ^ e0 = signedValue neg m e := by
  have hpow : (2 : ℚ) ^ (e - e0).toNat * 2 ^ e0 = 2 ^ e := by
    rw [← zpow_natCast, Int.toNat_of_nonneg (sub_nonneg.2 h), ← zpow_add₀ two_ne_zero, Int.sub_add_cancel]
  cases neg <;> simp [scaled, signedValue, magnitude, mul_assoc, hpow]

theorem addFinite_isRounded (fmt : FloatFmt) (rm : RoundingMode) (n1 : Bool) (m1 : Nat) (e1 : Int) (n2 : Bool) (m2 : Nat)
    (e2 : Int) :
    IsRounded fmt rm ((signedValue n1 m1 e1 + signedValue n2 m2 e2 : ℚ) : ℝ) (if n1 = n2 then n1 else decide (rm = .rdn))
      (addFinite fmt rm n1 m1 e1 n2 m2 e2) := by
  rw [← scaled_mul_zpow n1 m1 (min_le_left e1 e2), ← scaled_mul_zpow n2 m2 (min_le_right e1 e2), ← add_mul, ← Int.cast_add,
    addFinite]
  generalize scaled n1 m1 e1 (min e1 e2) + scaled n2 m2 e2 (min e1 e2) = t
  by_cases ht : t = 0
  · subst ht
    rw [if_pos rfl, Int.cast_zero, zero_mul, Rat.cast_zero]
    exact ⟨fun h => absurd h (lt_irrefl _), fun h => absurd h (lt_irrefl _), fun _ => rfl⟩
  · rw [if_neg ht]
    exact (isRounded_roundPack_int fmt rm t _).of_ne_zero (by positivity)

theorem signedValue_not (n : Bool) (m : Nat) (e : Int) : signedValue (!n) m e = -signedValue n m e := by
  cases n <;> simp [signedValue]

theorem signedValue_mul (n1 : Bool) (m1 : Nat) (e1 : Int) (n2 : Bool) (m2 : Nat) (e2 : Int) :
    signedValue n1 m1 e1 * signedValue n2 m2 e2 = signedValue (n1 != n2) (m1 * m2) (e1 + e2) := by
  have hpow : (2 : ℚ) ^ (e1 + e2) = 2 ^ e1 * 2 ^ e2 := zpow_add₀ two_ne_zero e1 e2
  cases n1 <;> cases n2 <;> simp [signedValue, magnitude, hpow] <;> ring

/-! ## The operations on finite operands -/

section
variable {fmt : FloatFmt} {rm : RoundingMode} {a b : Word} {n1 n2 : Bool} {m1 m2 : Nat} {e1 e2 : Int}
  (ha : unpack fmt a = .finite n1 m1 e1) (hb : unpack fmt b = .finite n2 m2 e2)
include ha hb

theorem fadd_finite : fadd fmt rm a b = addFinite fmt rm n1 m1 e1 n2 m2 e2 := by
  rw [fadd, ha, hb]
  rfl

theorem fmul_finite : fmul fmt rm a b = roundPack fmt rm (n1 != n2) (m1 * m2) (e1 + e2) := by
  rw [fmul, ha, hb]

theorem fma_finite {c : Word} {n3 : Bool} {m3 : Nat} {e3 : Int} (hc : unpack fmt c = .finite n3 m3 e3) :
    fma fmt rm a b c = addFinite fmt rm (n1 != n2) (m1 * m2) (e1 + e2) n3 m3 e3 := by
  rw [fma, ha, hb, hc]
  rfl

end

theorem intToF_isRounded (fmt : FloatFmt) (t : IntFmt) (rm : RoundingMode) (v : Word) :
    IsRounded fmt rm (t.ofWord v : ℝ) false (intToF fmt t rm v) := by
  simpa [intToF] using isRounded_roundPack_int fmt rm (t.ofWord v) 0

/-- Settles O35: each operation is one `addFinite` or one `roundPack` of the exact number. -/
theorem floatSumsAndProducts : Obligations.FloatSumsAndProducts := by
  refine ⟨?operations, fun fmt rm v => ?integers⟩
  case operations =>
    intro fmt dst rm a b c n1 n2 n3 m1 m2 m3 e1 e2 e3 ha hb
    refine ⟨?sum, ?difference, ?product, fun hc => ?fused, ?conversion⟩
    case sum =>
      rw [fadd_finite ha hb]
      exact addFinite_isRounded ..
    case difference =>
      have hflip : unpack fmt (b ^^^ fmt.signMask) = .finite (!n2) m2 e2 := by rw [unpack_xor_signMask, hb]; rfl
      rw [fsub, fadd_finite ha hflip, sub_eq_add_neg, ← signedValue_not]
      exact addFinite_isRounded ..
    case product =>
      rw [fmul_finite ha hb, signedValue_mul]
      exact isRounded_roundPack ..
    case fused =>
      rw [fma_finite ha hb hc, signedValue_mul]
      exact addFinite_isRounded ..
    case conversion =>
      rw [fToF, ha]
      exact isRounded_roundPack ..
  case integers =>
    have hw := intToF_isRounded fmt .w rm v
    have hwu := intToF_isRounded fmt .wu rm v
    have hl := intToF_isRounded fmt .l rm v
    have hlu := intToF_isRounded fmt .lu rm v
    have hlow : slice v 0 32 = v.setWidth 32 := low32_eq_setWidth v
    simp only [IntFmt.ofWord, hlow, Int.cast_natCast] at hw hwu hl hlu
    exact ⟨hw, hwu, hl, hlu⟩

end Sys2Proof.Machine
end

section
/-! Family 45_f_single: quotients and square roots. The model rounds a truncated result with one more bit that says whether anything
was cut off; that bit keeps the number on its side of every place where a rounding decides (45_f_single R569, R570). -/

namespace Sys2Proof.Machine

open Sys2Proof

/-! ## Numbers on the same side of every multiple -/

section
variable {u c x x' : ℝ} {s t : ℤ}

/-- The multiples of a greater power of two are among those of a smaller one. -/
theorem SameSide.mono (h : SameSide (2 ^ s) x x') (hst : s ≤ t) : SameSide (2 ^ t) x x' := by
  have hpow : ∀ j : ℤ, (j : ℝ) * 2 ^ t = (j * 2 ^ (t - s).toNat : ℤ) * 2 ^ s := fun j => by
    push_cast
    rw [← zpow_natCast, Int.toNat_of_nonneg (sub_nonneg.2 hst), mul_assoc, ← zpow_add₀ two_ne_zero, Int.sub_add_cancel]
  intro j
  rw [hpow]
  exact h _

theorem SameSide.div (h : SameSide u x x') (hc : 0 < c) : SameSide (u / c) (x / c) (x' / c) := by
  intro j
  simp only [← mul_div_assoc, div_le_div_iff_of_pos_right hc]
  exact h j

theorem SameSide.eq_iff (h : SameSide u x x') (j : ℤ) : j * u = x ↔ j * u = x' := by
  rw [le_antisymm_iff, le_antisymm_iff, (h j).1, (h j).2]

/-- Between two neighbouring multiples all numbers are on the same side. -/
theorem sameSide_of_between {n : ℕ} (hu : 0 < u) (hlo : n * u < x) (hhi : x < (n + 1) * u) (hlo' : n * u < x')
    (hhi' : x' < (n + 1) * u) : SameSide u x x' := by
  have hside : ∀ (j : ℤ) {z : ℝ}, n * u < z → z < (n + 1) * u → (j * u ≤ z ↔ j ≤ n) ∧ (z ≤ j * u ↔ n + 1 ≤ j) := by
    intro j z h1 h2
    rcases le_or_gt j n with hj | hj
    · have hle : (j : ℝ) * u ≤ n * u := mul_le_mul_of_nonneg_right (by exact_mod_cast hj) hu.le
      exact ⟨iff_of_true (hle.trans h1.le) hj, iff_of_false (not_le.2 (hle.trans_lt h1)) (by omega)⟩
    · have hle : ((n : ℝ) + 1) * u ≤ j * u := mul_le_mul_of_nonneg_right (by exact_mod_cast hj) hu.le
      exact ⟨iff_of_false (not_le.2 (h2.trans_le hle)) (by omega), iff_of_true (h2.le.trans hle) hj⟩
  intro j
  rw [(hside j hlo hhi).1, (hside j hlo hhi).2, (hside j hlo' hhi').1, (hside j hlo' hhi').2]
  exact ⟨Iff.rfl, Iff.rfl⟩

end

/-- Rounding does not see a change of the number that stays on the same side of every multiple of `2^s`, where `2^s` is below
half of the last place. -/
theorem CorrectlyRounded.congr {fmt : FloatFmt} {rm : RoundingMode} {neg : Bool} {x x' : ℝ} {s : ℤ} {out : Word × FFlags}
    (h : CorrectlyRounded fmt rm neg x out) (hs : SameSide (2 ^ s) x x') (hbig : (2 : ℝ) ^ (s + fmt.prec) ≤ x) :
    CorrectlyRounded fmt rm neg x' out := by
  obtain ⟨lg, q, r, free, hlo, hhi, hq, hr, hfree, hover, hfin⟩ := h
  have hprec : 1 ≤ (fmt.prec : ℤ) := by rw [FloatFmt.prec]; omega
  have hlg : s + fmt.prec < lg + 1 := (zpow_lt_zpow_iff_right₀ one_lt_two).1 (hbig.trans_lt hhi)
  have hlo' := ((hs.mono (by omega : s ≤ lg)) 1).1
  have hhi' := ((hs.mono (by omega : s ≤ lg + 1)) 1).1
  rw [Int.cast_one, one_mul] at hlo' hhi'
  have hround : ∀ {p k : ℤ}, s < p → RoundsTo rm neg (x / 2 ^ p) k → RoundsTo rm neg (x' / 2 ^ p) k := fun {p k} hp hk => by
    have hside := (hs.mono (by omega : s ≤ p - 1)).div (c := 2 ^ p) (by positivity)
    have hhalf : (2 : ℝ) ^ (p - 1) / 2 ^ p = 1 / 2 := by
      rw [← zpow_sub₀ two_ne_zero, show p - 1 - p = -1 by ring]
      norm_num
    rw [hhalf] at hside
    exact hk.congr hside
  have hval := (hs.mono (by omega : s ≤ q)).eq_iff r
  refine ⟨lg, q, r, free, hlo'.1 hlo, not_le.1 (mt hhi'.2 (not_le.2 hhi)), hq, hround (by omega) hr, hround (by omega) hfree,
    hover, fun hle => ?_⟩
  obtain ⟨hout, hexact, htiny, hnormal⟩ := hfin hle
  exact ⟨hout, fun h => hexact (hval.2 h), fun h => htiny (mt hval.1 h), fun h => hnormal (mt hval.1 h)⟩

/-- Rounding a truncated magnitude with a last bit that says whether anything was cut off. -/
theorem roundPack_sticky (fmt : FloatFmt) (rm : RoundingMode) (neg : Bool) {n : Nat} {s : ℤ} {x : ℝ} {exact : Prop}
    [Decidable exact] (hlo : (n : ℝ) * 2 ^ s ≤ x) (hhi : x < (n + 1) * 2 ^ s) (hexact : exact ↔ x = n * 2 ^ s)
    (hbig : 2 ^ fmt.prec ≤ n) :
    CorrectlyRounded fmt rm neg x (roundPack fmt rm neg (2 * n + if exact then 0 else 1) (s - 1)) := by
  have hpos : (0 : ℝ) < 2 ^ s := by positivity
  have hn : 0 < n := (Nat.two_pow_pos _).trans_le hbig
  have hround := roundPack_correctlyRounded fmt rm neg (m := 2 * n + if exact then 0 else 1) (s - 1) (by omega)
  have hhalf : ((2 * n + if exact then 0 else 1 : ℕ) : ℝ) * 2 ^ (s - 1) = (n + if exact then 0 else 1 / 2) * 2 ^ s := by
    rw [zpow_sub₀ two_ne_zero, zpow_one]
    split <;> push_cast <;> ring
  rw [hhalf] at hround
  have hscale : (2 : ℝ) ^ (s + fmt.prec) ≤ n * 2 ^ s := by
    rw [← natCast_two_pow_mul_zpow]
    exact mul_le_mul_of_nonneg_right (by exact_mod_cast hbig) hpos.le
  by_cases he : exact
  · rw [if_pos he, add_zero] at hround
    rw [hexact.1 he]
    exact hround
  · have hne : (n : ℝ) * 2 ^ s ≠ x := fun h => he (hexact.2 h.symm)
    rw [if_neg he] at hround
    have habove : (n : ℝ) * 2 ^ s < (n + 1 / 2) * 2 ^ s := mul_lt_mul_of_pos_right (by linarith) hpos
    have hbelow : ((n : ℝ) + 1 / 2) * 2 ^ s < (n + 1) * 2 ^ s := mul_lt_mul_of_pos_right (by linarith) hpos
    exact hround.congr (sameSide_of_between hpos habove hbelow (lt_of_le_of_ne hlo hne) hhi) (hscale.trans habove.le)

/-! ## Quotients -/

theorem fdiv_finite {fmt : FloatFmt} {rm : RoundingMode} {a b : Word} {n1 n2 : Bool} {m1 m2 : Nat} {e1 e2 : Int}
    (ha : unpack fmt a = .finite n1 m1 e1) (hb : unpack fmt b = .finite n2 m2 e2) (hm : m2 ≠ 0) {k : Nat}
    (hk : k = fmt.prec + 2 + bitLength m2) :
    fdiv fmt rm a b = roundPack fmt rm (n1 != n2)
      (2 * (m1 * 2 ^ k / m2) + if m1 * 2 ^ k % m2 = 0 then 0 else 1) (e1 - e2 - k - 1) := by
  subst hk
  rw [fdiv, ha, hb]
  exact if_neg hm

/-- The quotient is cut off after `k` places, enough for the precision of the format. -/
theorem quotient_correctlyRounded (fmt : FloatFmt) (rm : RoundingMode) (neg : Bool) {m1 m2 k : Nat} (e1 e2 : Int) (h1 : m1 ≠ 0)
    (h2 : m2 ≠ 0) (hk : k = fmt.prec + 2 + bitLength m2) :
    CorrectlyRounded fmt rm neg (m1 * 2 ^ e1 / (m2 * 2 ^ e2))
      (roundPack fmt rm neg (2 * (m1 * 2 ^ k / m2) + if m1 * 2 ^ k % m2 = 0 then 0 else 1) (e1 - e2 - k - 1)) := by
  have hpos : (0 : ℝ) < 2 ^ (e1 - e2 - k) := by positivity
  have hm2 : (0 : ℝ) < m2 := by exact_mod_cast Nat.pos_of_ne_zero h2
  have hx : (m1 : ℝ) * 2 ^ e1 / (m2 * 2 ^ e2) = (m1 * 2 ^ k : ℕ) / m2 * 2 ^ (e1 - e2 - k) := by
    push_cast
    rw [zpow_sub₀ two_ne_zero, zpow_sub₀ two_ne_zero, zpow_natCast]
    field_simp
  have hbig : 2 ^ fmt.prec * m2 ≤ m1 * 2 ^ k := by
    calc 2 ^ fmt.prec * m2 ≤ 2 ^ (fmt.prec + 2) * 2 ^ bitLength m2 :=
          Nat.mul_le_mul (Nat.pow_le_pow_right two_pos (by omega)) (bitLength_bounds h2).2.1.le
      _ = 2 ^ k := by rw [hk, pow_add _ (fmt.prec + 2)]
      _ ≤ m1 * 2 ^ k := Nat.le_mul_of_pos_left _ (Nat.pos_of_ne_zero h1)
  generalize m1 * 2 ^ k = num at hx hbig ⊢
  have hdiv : (num : ℝ) = m2 * (num / m2 : ℕ) + (num % m2 : ℕ) := by exact_mod_cast (Nat.div_add_mod num m2).symm
  have hmod : ((num % m2 : ℕ) : ℝ) < m2 := by exact_mod_cast Nat.mod_lt num (Nat.pos_of_ne_zero h2)
  rw [hx]
  refine roundPack_sticky fmt rm neg ?_ ?_ ?_ ((Nat.le_div_iff_mul_le (Nat.pos_of_ne_zero h2)).2 hbig)
  · exact mul_le_mul_of_nonneg_right Nat.cast_div_le hpos.le
  · refine mul_lt_mul_of_pos_right ?_ hpos
    rw [div_lt_iff₀ hm2]
    linarith
  · rw [mul_left_inj' hpos.ne', div_eq_iff hm2.ne', hdiv, mul_comm, add_eq_left, Nat.cast_eq_zero]

/-! ## Square roots -/

/-- The bits below `2^i` are added as long as the square stays at most `n`. -/
theorem isqrtBits_spec (n i r : Nat) (hlo : r * r ≤ n) (hhi : n < (r + 2 ^ i) * (r + 2 ^ i)) :
    isqrtBits n i r * isqrtBits n i r ≤ n ∧ n < (isqrtBits n i r + 1) * (isqrtBits n i r + 1) := by
  induction i generalizing r with
  | zero => exact ⟨hlo, hhi⟩
  | succ i ih =>
    rw [isqrtBits]
    split
    next h => exact ih _ h (by rwa [add_assoc, ← mul_two, ← pow_succ])
    next h => exact ih _ hlo (not_le.1 h)

theorem isqrt_spec (n : Nat) : isqrt n * isqrt n ≤ n ∧ n < (isqrt n + 1) * (isqrt n + 1) := by
  refine isqrtBits_spec n _ 0 (Nat.zero_le n) ?_
  rw [zero_add, ← pow_add]
  by_cases hn : n = 0
  · rw [hn]; positivity
  · exact (bitLength_bounds hn).2.1.trans_le (Nat.pow_le_pow_right two_pos (by omega))

theorem fsqrt_finite {fmt : FloatFmt} {rm : RoundingMode} {a : Word} {m : Nat} {e : Int}
    (ha : unpack fmt a = .finite false m e) (hm : m ≠ 0) {k n : Nat} (hk : k = 2 * (fmt.prec + 2) + (e % 2).toNat)
    (hn : n = m * 2 ^ k) :
    fsqrt fmt rm a = roundPack fmt rm false (2 * isqrt n + if isqrt n * isqrt n = n then 0 else 1) ((e - k) / 2 - 1) := by
  subst hn hk
  rw [fsqrt, ha]
  exact if_neg hm

/-- The root is cut off after enough places for the precision of the format, with an even exponent left under it. -/
theorem root_correctlyRounded (fmt : FloatFmt) (rm : RoundingMode) {m k n : Nat} {e : Int} (hm : m ≠ 0)
    (hk : k = 2 * (fmt.prec + 2) + (e % 2).toNat) (hn : n = m * 2 ^ k) :
    CorrectlyRounded fmt rm false (Real.sqrt (m * 2 ^ e))
      (roundPack fmt rm false (2 * isqrt n + if isqrt n * isqrt n = n then 0 else 1) ((e - k) / 2 - 1)) := by
  obtain ⟨s, hs⟩ : ∃ s : ℤ, s = (e - k) / 2 := ⟨_, rfl⟩
  have heven : e = k + (s + s) := by omega
  have hpos : (0 : ℝ) < 2 ^ s := by positivity
  have hx : (m : ℝ) * 2 ^ e = n * (2 ^ s * 2 ^ s) := by
    rw [hn, heven, zpow_add₀ two_ne_zero, zpow_add₀ two_ne_zero, zpow_natCast]
    push_cast
    ring
  have hroot : Real.sqrt (m * 2 ^ e) = Real.sqrt n * 2 ^ s := by
    rw [hx, Real.sqrt_mul n.cast_nonneg, Real.sqrt_mul_self hpos.le]
  obtain ⟨hlo, hhi⟩ := isqrt_spec n
  have hbig : 2 ^ fmt.prec ≤ isqrt n := by
    have hsq : 2 ^ (fmt.prec + 2) * 2 ^ (fmt.prec + 2) < (isqrt n + 1) * (isqrt n + 1) := by
      refine lt_of_le_of_lt ?_ hhi
      rw [hn, ← pow_add]
      exact (Nat.pow_le_pow_right two_pos (by omega)).trans (Nat.le_mul_of_pos_left _ (Nat.pos_of_ne_zero hm))
    have hlt : 2 ^ (fmt.prec + 2) < isqrt n + 1 := Nat.mul_self_lt_mul_self_iff.1 hsq
    exact (Nat.pow_le_pow_right two_pos (by omega)).trans (Nat.le_of_lt_succ hlt)
  rw [← hs, hroot]
  refine roundPack_sticky fmt rm false ?_ ?_ ?_ hbig
  · exact mul_le_mul_of_nonneg_right (Real.le_sqrt_of_sq_le (by rw [sq]; exact_mod_cast hlo)) hpos.le
  · refine mul_lt_mul_of_pos_right ((Real.sqrt_lt' (by positivity)).2 ?_) hpos
    rw [sq]
    exact_mod_cast hhi
  · rw [mul_left_inj' hpos.ne', Real.sqrt_eq_iff_mul_self_eq n.cast_nonneg (Nat.cast_nonneg _)]
    exact_mod_cast eq_comm

/-- Settles O36: the quotient and the root are rounded with their sticky bit; a zero quotient is packed with its sign. -/
theorem floatQuotientsAndRoots : Obligations.FloatQuotientsAndRoots := by
  intro fmt rm a b n1 n2 m1 m2 e1 e2 ha
  refine ⟨fun hb h2 => ?quotient, fun h1 hn => ?root⟩
  case quotient =>
    rw [fdiv_finite ha hb h2 rfl, Rat.cast_div, signedValue_cast, signedValue_cast]
    refine isRounded_of_magnitude (x := m1 * 2 ^ e1 / (m2 * 2 ^ e2)) (neg := n1 != n2) (by positivity) ?_ (fun hpos => ?_)
      fun h0 => ?_
    · cases n1 <;> cases n2 <;> simp [neg_div, div_neg]
    · refine quotient_correctlyRounded fmt rm _ e1 e2 (fun h1 => hpos.ne' ?_) h2 rfl
      rw [h1, Nat.cast_zero, zero_mul, zero_div]
    · have h1 : m1 = 0 := by
        have := (div_eq_zero_iff.1 h0).resolve_right (by positivity)
        exact Nat.cast_eq_zero.1 ((mul_eq_zero.1 this).resolve_right (by positivity))
      rw [h1, zero_mul, Nat.zero_div, Nat.zero_mod, if_pos rfl]
      exact roundPack_zero ..
  case root =>
    subst hn
    rw [fsqrt_finite ha h1 rfl rfl, magnitude_cast]
    exact root_correctlyRounded fmt rm h1 rfl rfl

end Sys2Proof.Machine
end

section
/-! Family 45_f_single: conversion to an integer rounds in the mode and then tests the destination's range (45_f_single R552, R558). -/

namespace Sys2Proof.Machine

open Sys2Proof

/-! ## A finite operand -/

theorem lo_le_hi (t : IntFmt) : t.lo ≤ t.hi := by cases t <;> decide

section
variable {fmt : FloatFmt} {m : RoundingMode} {a : Word} {n : Bool} {k : Nat} {e r : Int}
  (ha : unpack fmt a = .finite n k e)
include ha

theorem fToInt_finite (t : IntFmt) (hr : RoundsTo m n ((magnitude k e : ℚ) : ℝ) r) :
    fToInt fmt t m a =
      let v : Int := if n then -r else r
      if v < t.lo then (t.toWord t.lo, .nv) else if t.hi < v then (t.toWord t.hi, .nv)
      else (t.toWord v, if (r : ℚ) = magnitude k e then .none else .nx) := by
  obtain ⟨hround, hinexact⟩ := roundAt_spec m n k e 0
  rw [zpow_zero, div_one, ← magnitude_cast] at hround
  rw [zpow_zero, mul_one, ← magnitude_cast] at hinexact
  obtain rfl := hr.unique hround
  have hflag : (roundAt m n k e 0).2 = true ↔ ¬(((roundAt m n k e 0).1 : ℤ) : ℚ) = magnitude k e :=
    hinexact.trans (not_congr (by norm_cast))
  simp only [fToInt, ha, hflag, ite_not]

/-- The rounded value below, above and in the range of the destination. -/
theorem fToInt_range (hr : RoundsTo m n ((magnitude k e : ℚ) : ℝ) r) (t : IntFmt) :
    let v : Int := if n then -r else r
    (v < t.lo → fToInt fmt t m a = (t.toWord t.lo, 0x10#5)) ∧ (t.hi < v → fToInt fmt t m a = (t.toWord t.hi, 0x10#5)) ∧
      (t.lo ≤ v → v ≤ t.hi → fToInt fmt t m a = (t.toWord v, if (r : ℚ) = magnitude k e then 0#5 else 0x01#5)) := by
  intro v
  have hle := lo_le_hi t
  refine ⟨fun h => ?_, fun h => ?_, fun h1 h2 => ?_⟩ <;> rw [fToInt_finite ha t hr]
  · exact if_pos h
  · exact (if_neg (by omega)).trans (if_pos h)
  · exact (if_neg (by omega)).trans (if_neg (by omega))

end

theorem exists_roundsTo (m : RoundingMode) (n : Bool) (k : Nat) (e : Int) : ∃ r, RoundsTo m n ((magnitude k e : ℚ) : ℝ) r := by
  obtain ⟨hround, -⟩ := roundAt_spec m n k e 0
  rw [zpow_zero, div_one, ← magnitude_cast] at hround
  exact ⟨_, hround⟩

/-! ## Saturation -/

section
variable {fmt : FloatFmt} {m : RoundingMode} {a : Word}

theorem fToInt_nan {s : Bool} (h : unpack fmt a = .nan s) (t : IntFmt) : fToInt fmt t m a = (t.toWord t.hi, 0x10#5) := by
  rw [fToInt, h]
  rfl

theorem fToInt_inf {n : Bool} (h : unpack fmt a = .inf n) (t : IntFmt) :
    fToInt fmt t m a = (t.toWord (if n then t.lo else t.hi), 0x10#5) := by
  rw [fToInt, h]
  rfl

/-- The answer is the greatest value of the destination, for each destination. -/
theorem saturates_hi (h : ∀ t, fToInt fmt t m a = (t.toWord t.hi, 0x10#5)) :
    fToInt fmt .w m a = (0x7FFFFFFF#64, 0x10#5) ∧ fToInt fmt .wu m a = (0xFFFFFFFFFFFFFFFF#64, 0x10#5) ∧
      fToInt fmt .l m a = (0x7FFFFFFFFFFFFFFF#64, 0x10#5) ∧ fToInt fmt .lu m a = (0xFFFFFFFFFFFFFFFF#64, 0x10#5) :=
  ⟨h .w, h .wu, h .l, h .lu⟩

/-- The answer is the least value of the destination, for each destination. -/
theorem saturates_lo (h : ∀ t, fToInt fmt t m a = (t.toWord t.lo, 0x10#5)) :
    fToInt fmt .w m a = (0xFFFFFFFF80000000#64, 0x10#5) ∧ fToInt fmt .wu m a = (0#64, 0x10#5) ∧
      fToInt fmt .l m a = (0x8000000000000000#64, 0x10#5) ∧ fToInt fmt .lu m a = (0#64, 0x10#5) :=
  ⟨h .w, h .wu, h .l, h .lu⟩

theorem fToInt_above {k : Nat} {e : Int} (ha : unpack fmt a = .finite false k e) (h : (2 : ℚ) ^ 64 ≤ magnitude k e)
    (t : IntFmt) : fToInt fmt t m a = (t.toWord t.hi, 0x10#5) := by
  obtain ⟨r, hr⟩ := exists_roundsTo m false k e
  have hr64 : 2 ^ 64 ≤ r := hr.ge_of_ge (by exact_mod_cast h)
  have hhi : t.hi < 2 ^ 64 := by cases t <;> decide
  exact (fToInt_range ha hr t).2.1 (lt_of_lt_of_le hhi hr64)

theorem fToInt_below {k : Nat} {e : Int} (ha : unpack fmt a = .finite true k e) (h : (2 : ℚ) ^ 63 < magnitude k e - 1)
    (t : IntFmt) : fToInt fmt t m a = (t.toWord t.lo, 0x10#5) := by
  obtain ⟨r, hr⟩ := exists_roundsTo m true k e
  have hr63 : 2 ^ 63 + 1 ≤ r := hr.ge_of_ge (by
    have : (2 : ℚ) ^ 63 + 1 ≤ magnitude k e := by linarith
    exact_mod_cast this)
  have hlo : -2 ^ 63 ≤ t.lo := by cases t <;> decide
  exact (fToInt_range ha hr t).1 (by simp only [if_true]; omega)

end

/-- A 32-bit value sign-extended from bit 31 is itself. -/
theorem sext64_ofInt32 {v : Int} (hlo : -2 ^ 31 ≤ v) (hhi : v < 2 ^ 31) : sext64 (BitVec.ofInt 32 v) = BitVec.ofInt 64 v := by
  rw [sext64, BitVec.signExtend, BitVec.toInt_ofInt, Int.bmod_eq_of_le] <;> omega

/-- An integral operand is its own rounding. -/
theorem fToInt_integral {fmt : FloatFmt} {m : RoundingMode} {a : Word} {n : Bool} {k : Nat} {e v : Int}
    (ha : unpack fmt a = .finite n k e) (hv : (v : ℚ) = (if n then -1 else 1) * magnitude k e) (t : IntFmt) (hlo : t.lo ≤ v)
    (hhi : v ≤ t.hi) : fToInt fmt t m a = (t.toWord v, 0#5) := by
  obtain ⟨r, hr, hmag⟩ : ∃ r : ℤ, (if n then -r else r) = v ∧ (r : ℚ) = magnitude k e := by
    refine ⟨if n then -v else v, ?_, ?_⟩ <;> cases n <;> simp [hv]
  have hround : RoundsTo m n ((magnitude k e : ℚ) : ℝ) r := by
    rw [← hmag, Rat.cast_intCast]
    exact roundsTo_intCast m n r
  have hrange := (fToInt_range ha hround t).2.2
  rw [hr, if_pos hmag] at hrange
  exact hrange hlo hhi

/-- Settles O39: the last clause is `fToInt_range` for each destination, the others are cases of it. -/
theorem floatToIntegerRange : Obligations.FloatToIntegerRange := by
  intro fmt m a
  refine ⟨fun h => ?high, fun h => ?low, fun k e h hbig => ?above, fun k e h hbig => ?below, fun n k e v h hv => ?integral,
    fun n k e r h hr => ?range⟩
  case high =>
    rcases h with h | h
    · exact saturates_hi fun t => fToInt_inf h t
    · cases hu : unpack fmt a <;> rw [hu] at h
      case nan s => exact saturates_hi fun t => fToInt_nan hu t
      all_goals exact absurd h Bool.false_ne_true
  case low => exact saturates_lo fun t => fToInt_inf h t
  case above => exact saturates_hi fun t => fToInt_above h hbig t
  case below => exact saturates_lo fun t => fToInt_below h hbig t
  case integral =>
    refine ⟨fun h1 h2 => ?_, fun h1 h2 => ?_, fun h1 h2 => ?_, fun h1 h2 => ?_⟩
    · rw [← sext64_ofInt32 h1 h2]
      exact fToInt_integral h hv .w h1 (Int.le_sub_one_of_lt h2)
    · exact fToInt_integral h hv .wu h1 (Int.le_sub_one_of_lt h2)
    · exact fToInt_integral h hv .l h1 (Int.le_sub_one_of_lt h2)
    · exact fToInt_integral h hv .lu h1 (Int.le_sub_one_of_lt h2)
  case range => exact ⟨fToInt_range h hr .w, fToInt_range h hr .wu, fToInt_range h hr .l, fToInt_range h hr .lu⟩

end Sys2Proof.Machine
end

section
/-! Family 45_f_single: NaN operands, invalid operations, infinities, division by zero and the signs of zeros (45_f_single R551,
R555). -/

namespace Sys2Proof.Machine

open Sys2Proof

theorem fadd_eq (fmt : FloatFmt) (m : RoundingMode) (a b : Word) :
    fadd fmt m a b = addVal fmt m (unpack fmt a) (unpack fmt b) := rfl

theorem fsub_eq (fmt : FloatFmt) (m : RoundingMode) (a b : Word) :
    fsub fmt m a b = addVal fmt m (unpack fmt a) (unpack fmt b).flip := by
  rw [fsub, fadd, unpack_xor_signMask]

/-! ## NaN operands -/

@[simp] theorem isNan_flip (v : FVal) : v.flip.isNan = v.isNan := by cases v <;> rfl

@[simp] theorem isSnan_flip (v : FVal) : v.flip.isSnan = v.isSnan := by cases v <;> rfl

theorem isNan_of_eq {v : FVal} {s : Bool} (h : v = .nan s) : v.isNan = true := by rw [h]; rfl

/-- Two operands, one of them a NaN: the first is, or only the second. -/
theorem nan_cases {x y : FVal} (h : x.isNan = true ∨ y.isNan = true) :
    (∃ s, x = .nan s) ∨ (∃ n s, x = .inf n ∧ y = .nan s) ∨ ∃ n k e s, x = .finite n k e ∧ y = .nan s := by
  cases x with
  | nan s => exact .inl ⟨s, rfl⟩
  | inf n =>
    cases y with
    | nan s => exact .inr (.inl ⟨n, s, rfl, rfl⟩)
    | _ => simp [FVal.isNan] at h
  | finite n k e =>
    cases y with
    | nan s => exact .inr (.inr ⟨n, k, e, s, rfl, rfl⟩)
    | _ => simp [FVal.isNan] at h

theorem addVal_nan (fmt : FloatFmt) (m : RoundingMode) {x y : FVal} (h : x.isNan = true ∨ y.isNan = true) :
    addVal fmt m x y = nanResult fmt (x.isSnan || y.isSnan) := by
  rcases nan_cases h with ⟨s, rfl⟩ | ⟨n, s, rfl, rfl⟩ | ⟨n, k, e, s, rfl, rfl⟩ <;> rfl

section
variable {fmt : FloatFmt} (m : RoundingMode) {a b c : Word} (h : (unpack fmt a).isNan = true ∨ (unpack fmt b).isNan = true)
include h

theorem fadd_nan : fadd fmt m a b = nanResult fmt ((unpack fmt a).isSnan || (unpack fmt b).isSnan) := addVal_nan fmt m h

theorem fsub_nan : fsub fmt m a b = nanResult fmt ((unpack fmt a).isSnan || (unpack fmt b).isSnan) := by
  rw [fsub_eq, addVal_nan fmt m (by rwa [isNan_flip]), isSnan_flip]

theorem fmul_nan : fmul fmt m a b = nanResult fmt ((unpack fmt a).isSnan || (unpack fmt b).isSnan) := by
  rw [fmul]
  generalize unpack fmt a = x at h ⊢
  generalize unpack fmt b = y at h ⊢
  rcases nan_cases h with ⟨s, rfl⟩ | ⟨n, s, rfl, rfl⟩ | ⟨n, k, e, s, rfl, rfl⟩ <;> rfl

theorem fdiv_nan : fdiv fmt m a b = nanResult fmt ((unpack fmt a).isSnan || (unpack fmt b).isSnan) := by
  rw [fdiv]
  generalize unpack fmt a = x at h ⊢
  generalize unpack fmt b = y at h ⊢
  rcases nan_cases h with ⟨s, rfl⟩ | ⟨n, s, rfl, rfl⟩ | ⟨n, k, e, s, rfl, rfl⟩ <;> rfl

theorem fma_nan : fma fmt m a b c = nanResult fmt ((unpack fmt a).isSnan || (unpack fmt b).isSnan || (unpack fmt c).isSnan) := by
  rw [fma]
  generalize unpack fmt a = x at h ⊢
  generalize unpack fmt b = y at h ⊢
  rcases nan_cases h with ⟨s, rfl⟩ | ⟨n, s, rfl, rfl⟩ | ⟨n, k, e, s, rfl, rfl⟩ <;> rfl

end

/-- One factor is infinite and the other zero. -/
def ZeroTimesInf (x y : FVal) : Prop := ∃ n n' e, (x = .inf n ∧ y = .finite n' 0 e) ∨ (y = .inf n ∧ x = .finite n' 0 e)

/-- A NaN addend gives a NaN; a quiet one hides no invalid product. -/
theorem fma_nan_addend {fmt : FloatFmt} (m : RoundingMode) {a b c : Word} {s : Bool} (ha : (unpack fmt a).isNan = false)
    (hb : (unpack fmt b).isNan = false) (hc : unpack fmt c = .nan s) (h : s = true ∨ ¬ZeroTimesInf (unpack fmt a) (unpack fmt b)) :
    fma fmt m a b c = nanResult fmt s := by
  rw [fma, hc]
  generalize unpack fmt a = x at ha h ⊢
  generalize unpack fmt b = y at hb h ⊢
  cases x with
  | nan => cases ha
  | inf n =>
    cases y with
    | nan => cases hb
    | inf n' => rfl
    | finite n' k e =>
      dsimp only
      split
      next hk => rw [h.resolve_right (not_not_intro ⟨n, n', e, .inl ⟨rfl, by rw [hk]⟩⟩)]; rfl
      next => rfl
  | finite n k e =>
    cases y with
    | nan => cases hb
    | inf n' =>
      dsimp only
      split
      next hk => rw [h.resolve_right (not_not_intro ⟨n', n, e, .inr ⟨rfl, by rw [hk]⟩⟩)]; rfl
      next => rfl
    | finite n' k' e' => rfl

/-! ## Infinite operands -/

/-- A value whose product with an infinity is the infinity of the exclusive or of the signs. -/
def TimesInf (v : FVal) (n : Bool) : Prop := ∃ n' k e, v = .inf n ∨ (v = .finite n' k e ∧ n' = n ∧ k ≠ 0)

section
variable {fmt : FloatFmt} (m : RoundingMode) {a b c : Word} {n n' : Bool} (ha : unpack fmt a = .inf n)
include ha

theorem fmul_inf (hb : TimesInf (unpack fmt b) n') :
    fmul fmt m a b = (packInf fmt (n != n'), 0#5) ∧ fmul fmt m b a = (packInf fmt (n' != n), 0#5) := by
  obtain ⟨n'', k, e, hb | ⟨hb, rfl, hk⟩⟩ := hb <;> rw [fmul, fmul, ha, hb]
  · exact ⟨rfl, rfl⟩
  · exact ⟨if_neg hk, if_neg hk⟩

/-- An infinite product is added to the third operand. -/
theorem fma_inf (hb : TimesInf (unpack fmt b) n') :
    fma fmt m a b c = addVal fmt m (.inf (n != n')) (unpack fmt c) ∧
      fma fmt m b a c = addVal fmt m (.inf (n != n')) (unpack fmt c) := by
  have hsign := congrArg (fun p => addVal fmt m (.inf p) (unpack fmt c)) (bne_comm (a := n') (b := n))
  obtain ⟨n'', k, e, hb | ⟨hb, rfl, hk⟩⟩ := hb <;> rw [fma, fma, ha, hb]
  · exact ⟨rfl, hsign⟩
  · exact ⟨if_neg hk, (if_neg hk).trans hsign⟩

end

/-! ## Exact zero sums -/

theorem scaled_not (n : Bool) (k : Nat) (e e0 : Int) : scaled (!n) k e e0 = -scaled n k e e0 := by
  cases n <;> simp [scaled]

theorem scaled_zero (n : Bool) (e e0 : Int) : scaled n 0 e e0 = 0 := by cases n <;> simp [scaled]

theorem addFinite_opposite (fmt : FloatFmt) (m : RoundingMode) (n : Bool) (k : Nat) (e : Int) :
    addFinite fmt m n k e (!n) k e = (packZero fmt (decide (m = .rdn)), 0#5) := by
  rw [addFinite, min_self, scaled_not, add_neg_cancel, if_pos rfl, if_neg (Bool.self_ne_not n)]
  rfl

theorem addFinite_zeros (fmt : FloatFmt) (m : RoundingMode) (n : Bool) (e e' : Int) :
    addFinite fmt m n 0 e n 0 e' = (packZero fmt n, 0#5) := by
  rw [addFinite, scaled_zero, scaled_zero, add_zero, if_pos rfl, if_pos rfl]
  rfl

/-! ## The clauses -/

/-- Settles O37: the NaN clauses by `nan_cases`, the others by the case of the operation that its operands select. -/
theorem floatSpecialCases : Obligations.FloatSpecialCases := by
  intro fmt dst m a b c
  refine ⟨fun h => ?snan, fun h => ?snanAddend, fun h => ?snanUnary, fun ha hb => ?qnan, fun h => ?qnanUnary,
    fun hc ha hb h => ?qnanAddend, fun n ha hb => ?infMinusInf, fun n ha hb => ?infPlusInf, fun n n' k e ha hb => ?infFinite,
    fun n n' ha hb => ?infOverInf, fun n n' e ha hb => ?infTimesZero, fun n n' ha hb => ?infTimes,
    fun n1 k1 e1 n2 k2 e2 n3 ha hb hc => ?infAddend, fun n n' e e' ha hb => ?zeroOverZero, fun k e hk ha => ?rootNegative,
    fun ha => ?rootMinusInf, fun ha => ?rootInf, fun n ha => ?convertInf, fun n n' k e e' hk ha hb => ?overZero,
    fun n e ha => ?rootZero, fun n k e ha hb => ?cancelSum, fun n k e ha hb => ?cancelDifference,
    fun n e e' ha hb => ?zeroSum, fun n e e' ha hb => ?zeroDifference⟩
  case snan =>
    have hnan : (unpack fmt a).isNan = true ∨ (unpack fmt b).isNan = true := h.imp isNan_of_eq isNan_of_eq
    have hs : ((unpack fmt a).isSnan || (unpack fmt b).isSnan) = true := by
      rcases h with h | h <;> simp [h, FVal.isSnan]
    rw [fadd_nan m hnan, fsub_nan m hnan, fmul_nan m hnan, fdiv_nan m hnan, fma_nan m hnan, hs]
    exact ⟨rfl, rfl, rfl, rfl, rfl⟩
  case snanAddend =>
    by_cases hnan : (unpack fmt a).isNan = true ∨ (unpack fmt b).isNan = true
    · rw [fma_nan m hnan, h, FVal.isSnan, Bool.or_true]
      rfl
    · obtain ⟨ha, hb⟩ := not_or.1 hnan
      exact fma_nan_addend m (Bool.eq_false_iff.2 ha) (Bool.eq_false_iff.2 hb) h (.inl rfl)
  case snanUnary | qnanUnary =>
    rw [fsqrt, fToF, h]
    exact ⟨rfl, rfl⟩
  case qnan =>
    have hnan := isNan_of_eq ha
    have hs : (unpack fmt a).isSnan = false := by rw [ha]; rfl
    rw [fadd_nan m (.inl hnan), fadd_nan m (.inr hnan), fsub_nan m (.inl hnan), fsub_nan m (.inr hnan), fmul_nan m (.inl hnan),
      fmul_nan m (.inr hnan), fdiv_nan m (.inl hnan), fdiv_nan m (.inr hnan), fma_nan m (.inl hnan), fma_nan m (.inr hnan), hs, hb]
    refine ⟨rfl, rfl, rfl, rfl, rfl, rfl, rfl, rfl, fun hc => ?_⟩
    rw [hc]
    exact ⟨rfl, rfl⟩
  case qnanAddend => exact fma_nan_addend m ha hb hc (.inr h)
  case infMinusInf =>
    rw [fadd_eq, fsub_eq, ha, hb]
    cases n <;> exact ⟨rfl, rfl⟩
  case infPlusInf =>
    rw [fadd_eq, fsub_eq, ha, hb]
    cases n <;> exact ⟨rfl, rfl⟩
  case infFinite =>
    rw [fadd_eq, fadd_eq, fsub_eq, fsub_eq, fdiv, fdiv, ha, hb]
    exact ⟨rfl, rfl, rfl, rfl, rfl, rfl⟩
  case infOverInf =>
    rw [fdiv, ha, hb]
    rfl
  case infTimesZero =>
    rw [fmul, fmul, fma, fma, ha, hb]
    exact ⟨rfl, rfl, rfl, rfl⟩
  case infTimes =>
    obtain ⟨hab, hba⟩ := fmul_inf m ha hb
    obtain ⟨hfab, hfba⟩ := fma_inf (c := c) m ha hb
    refine ⟨hab, hba, fun hc => ?_, fun hc => ?_⟩ <;> rw [hfab, hfba]
    · rw [hc]
      cases n != n' <;> exact ⟨rfl, rfl⟩
    · rcases hc with hc | ⟨n3, k, e, hc⟩ <;> rw [hc]
      · exact ⟨if_pos rfl, if_pos rfl⟩
      · exact ⟨rfl, rfl⟩
  case infAddend =>
    rw [fma, ha, hb, hc]
    rfl
  case zeroOverZero =>
    rw [fdiv, ha, hb]
    rfl
  case rootNegative =>
    rw [fsqrt, ha]
    exact if_neg hk
  case rootMinusInf | rootInf | rootZero =>
    rw [fsqrt, ha]
    rfl
  case convertInf =>
    rw [fToF, ha]
    rfl
  case overZero =>
    rw [fdiv, ha, hb]
    exact if_neg hk
  case cancelSum =>
    rw [fadd_eq, ha, hb]
    exact addFinite_opposite ..
  case cancelDifference =>
    rw [fsub_eq, ha, hb]
    exact addFinite_opposite ..
  case zeroSum =>
    rw [fadd_eq, ha, hb]
    exact addFinite_zeros ..
  case zeroDifference =>
    rw [fsub_eq, ha, hb, FVal.flip, Bool.not_not]
    exact addFinite_zeros ..

end Sys2Proof.Machine
end

section
/-! Family 47_zicsr_zifencei: which register an address names, which accesses are refused, and what an access does
(47_zicsr_zifencei R650 to R658; 10_state R46). -/

namespace Sys2Proof.Machine

open Sys2Proof

/-! ## The table of addresses (10_state R46) -/

/-- The rows of the table that name one address. -/
def csrTable : List (BitVec 12 × Csr) :=
  [(0x001#12, .fflags), (0x002#12, .frm), (0x003#12, .fcsr), (0xC00#12, .cycle), (0xC01#12, .time), (0xC02#12, .instret),
    (0x100#12, .sstatus), (0x104#12, .sie), (0x105#12, .stvec), (0x106#12, .scounteren), (0x140#12, .sscratch),
    (0x141#12, .sepc), (0x142#12, .scause), (0x143#12, .stval), (0x144#12, .sip), (0x180#12, .satp),
    (0xF11#12, .mvendorid), (0xF12#12, .marchid), (0xF13#12, .mimpid), (0xF14#12, .mhartid), (0x300#12, .mstatus),
    (0x301#12, .misa), (0x302#12, .medeleg), (0x303#12, .mideleg), (0x304#12, .mie), (0x305#12, .mtvec),
    (0x306#12, .mcounteren), (0x340#12, .mscratch), (0x341#12, .mepc), (0x342#12, .mcause), (0x343#12, .mtval),
    (0x344#12, .mip), (0xB00#12, .mcycle), (0xB02#12, .minstret)]

/-- The table puts `c` at the address `a`: in a row of its own, or in one of the three ranges of counters and events. -/
def Csr.StandsAt (a : BitVec 12) (c : Csr) : Prop :=
  (a, c) ∈ csrTable ∨ (0xC03 ≤ a.toNat ∧ a.toNat ≤ 0xC1F ∧ c = .hpmcounter) ∨
    (0xB03 ≤ a.toNat ∧ a.toNat ≤ 0xB1F ∧ c = .mhpmcounter) ∨ (0x323 ≤ a.toNat ∧ a.toNat ≤ 0x33F ∧ c = .mhpmevent)

theorem Csr.ofAddr_of_mem_table : ∀ p ∈ csrTable, Csr.ofAddr p.1 = some p.2 := by decide

/-- The addresses of a range, each by its distance from the first. -/
theorem Csr.ofAddr_of_range {c : Csr} {lo len : Nat} (h : ∀ k < len, Csr.ofAddr (BitVec.ofNat 12 (lo + k)) = some c)
    {a : BitVec 12} (hlo : lo ≤ a.toNat) (hhi : a.toNat < lo + len) : Csr.ofAddr a = some c := by
  have hk := h (a.toNat - lo) (by omega)
  rwa [Nat.add_sub_cancel' hlo, BitVec.ofNat_toNat, BitVec.setWidth_eq] at hk

theorem Csr.ofAddr_of_standsAt {a : BitVec 12} {c : Csr} (h : Csr.StandsAt a c) : Csr.ofAddr a = some c := by
  rcases h with h | ⟨hlo, hhi, rfl⟩ | ⟨hlo, hhi, rfl⟩ | ⟨hlo, hhi, rfl⟩
  · exact Csr.ofAddr_of_mem_table _ h
  · exact Csr.ofAddr_of_range (len := 29) (by decide) hlo (by omega)
  · exact Csr.ofAddr_of_range (len := 29) (by decide) hlo (by omega)
  · exact Csr.ofAddr_of_range (len := 29) (by decide) hlo (by omega)

/-- A row of its own, found by the number of the address. -/
theorem Csr.StandsAt.row {a : BitVec 12} {c : Csr} {n : Nat} (ha : a.toNat = n) (h : (BitVec.ofNat 12 n, c) ∈ csrTable) :
    Csr.StandsAt a c := by
  rw [← ha, BitVec.ofNat_toNat, BitVec.setWidth_eq] at h
  exact .inl h

/-- By the arms of `ofAddr`: the last one tests the three ranges, every other one is a row. -/
theorem Csr.standsAt_of_ofAddr {a : BitVec 12} {c : Csr} (h : Csr.ofAddr a = some c) : Csr.StandsAt a c := by
  unfold Csr.ofAddr at h
  split at h
  case h_35 =>
    split_ifs at h with hhpm hmhpm hevent
    · cases h
      exact .inr (.inl ⟨hhpm.1, hhpm.2, rfl⟩)
    · cases h
      exact .inr (.inr (.inl ⟨hmhpm.1, hmhpm.2, rfl⟩))
    · cases h
      exact .inr (.inr (.inr ⟨hevent.1, hevent.2, rfl⟩))
  all_goals
    next ha =>
      cases h
      exact .row ha (by decide)

theorem Csr.ofAddr_eq_some_iff (a : BitVec 12) (c : Csr) : Csr.ofAddr a = some c ↔ Csr.StandsAt a c :=
  ⟨Csr.standsAt_of_ofAddr, Csr.ofAddr_of_standsAt⟩

/-! ## The registers with a condition of their own (47_zicsr_zifencei R651, items 4 to 6) -/

/-- The registers of the floating-point unit. -/
def Csr.isFp (c : Csr) : Bool := decide (c ∈ [.fflags, .frm, .fcsr])

/-- The user-mode counters. -/
def Csr.isCounter (c : Csr) : Bool := decide (c ∈ [.cycle, .time, .instret, .hpmcounter])

/-- Each of these groups is a set of addresses: what `ofAddr` answers says which, and the other way round. -/
theorem Csr.StandsAt.groups {a : BitVec 12} {c : Csr} (h : Csr.StandsAt a c) :
    (c.isFp = true ↔ a = 0x001#12 ∨ a = 0x002#12 ∨ a = 0x003#12) ∧
      (c.isCounter = true ↔ 0xC00 ≤ a.toNat ∧ a.toNat ≤ 0xC1F) ∧ (c = .satp ↔ a = 0x180#12) := by
  have hrows : ∀ p ∈ csrTable, (p.2.isFp = true ↔ p.1 = 0x001#12 ∨ p.1 = 0x002#12 ∨ p.1 = 0x003#12) ∧
      (p.2.isCounter = true ↔ 0xC00 ≤ p.1.toNat ∧ p.1.toNat ≤ 0xC1F) ∧ (p.2 = .satp ↔ p.1 = 0x180#12) := by decide
  rcases h with h | ⟨hlo, hhi, rfl⟩ | ⟨hlo, hhi, rfl⟩ | ⟨hlo, hhi, rfl⟩
  · exact hrows _ h
  · exact ⟨iff_of_false (by decide) (by bv_omega), iff_of_true rfl ⟨by omega, hhi⟩, iff_of_false nofun (by bv_omega)⟩
  · exact ⟨iff_of_false (by decide) (by bv_omega), iff_of_false (by decide) (by omega), iff_of_false nofun (by bv_omega)⟩
  · exact ⟨iff_of_false (by decide) (by bv_omega), iff_of_false (by decide) (by omega), iff_of_false nofun (by bv_omega)⟩

theorem State.counterEnabled_eq_false_iff (s : State) (i : Nat) : s.counterEnabled i = false ↔
    s.priv ≠ .machine ∧ (s.mcounteren.getLsbD i = false ∨ (s.priv = .user ∧ s.scounteren.getLsbD i = false)) := by
  rw [State.counterEnabled]
  cases s.priv with
  | machine => simp
  | supervisor => simp
  | user => simp only [Bool.and_eq_false_iff, ne_eq, reduceCtorEq, not_false_eq_true, true_and]

theorem State.csrEnabled_eq_false_iff (s : State) (a : BitVec 12) (c : Csr) : s.csrEnabled a c = false ↔
    (c.isFp = true ∧ s.fs = 0#2) ∨ (c.isCounter = true ∧ s.counterEnabled (a.toNat % 32) = false) ∨
      (c = .satp ∧ s.priv = .supervisor ∧ s.tvm = true) := by
  cases c
  case fflags | frm | fcsr => simp [State.csrEnabled, State.fpEnabled, Csr.isFp, Csr.isCounter]
  case cycle | time | instret | hpmcounter => simp [State.csrEnabled, Csr.isFp, Csr.isCounter]
  case satp => simp [State.csrEnabled, Csr.isFp, Csr.isCounter]
  all_goals exact iff_of_false nofun (by simp [Csr.isFp, Csr.isCounter])

/-! ## Refused accesses -/

theorem Priv.bits_lt_slice_iff (p : Priv) (a : BitVec 12) : p.bits < slice a 8 2 ↔ p.bits.toNat < a.toNat / 256 % 4 := by
  rw [BitVec.lt_def, slice, BitVec.extractLsb'_toNat, Nat.shiftRight_eq_div_pow]

theorem readOnly_iff (a : BitVec 12) : slice a 10 2 = 3#2 ↔ a.toNat / 1024 = 3 := by
  have ha : a.toNat < 4096 := a.isLt
  rw [← BitVec.toNat_inj, slice, BitVec.extractLsb'_toNat, Nat.shiftRight_eq_div_pow]
  show a.toNat / 1024 % 4 = 3 ↔ _
  omega

section
variable {s : State} {a : BitVec 12} {wr : Bool} {c : Csr}

theorem State.checkCsr_of_ofAddr_none (h : Csr.ofAddr a = none) : s.checkCsr a wr = none := by rw [State.checkCsr, h]

theorem State.checkCsr_of_ofAddr (h : Csr.ofAddr a = some c) : s.checkCsr a wr =
    if s.priv.bits < slice a 8 2 ∨ (wr = true ∧ slice a 10 2 = 3#2) ∨ s.csrEnabled a c = false then none else some c := by
  rw [State.checkCsr, h]
  by_cases hpriv : s.priv.bits < slice a 8 2
  · simp [hpriv]
  · by_cases hro : wr = true ∧ slice a 10 2 = 3#2
    · simp [hpriv, hro]
    · cases hen : s.csrEnabled a c <;> simp [hpriv, hro, hen]

theorem State.checkCsr_eq_none_iff (h : Csr.ofAddr a = some c) : s.checkCsr a wr = none ↔
    s.priv.bits < slice a 8 2 ∨ (wr = true ∧ slice a 10 2 = 3#2) ∨ s.csrEnabled a c = false := by
  rw [State.checkCsr_of_ofAddr h]
  split_ifs with hno <;> simp [hno]

theorem State.ofAddr_of_checkCsr (h : s.checkCsr a wr = some c) : Csr.ofAddr a = some c := by
  cases hc : Csr.ofAddr a with
  | none => cases (State.checkCsr_of_ofAddr_none hc).symm.trans h
  | some d =>
    rw [State.checkCsr_of_ofAddr hc] at h
    split_ifs at h
    exact h

end

/-- Settles O41: an address without a register is refused by the first condition; at any other address the last three conditions
are those of its register, which the address names. -/
theorem csrAccessRules : Obligations.CsrAccessRules := by
  intro s a wr
  refine ⟨Csr.ofAddr_eq_some_iff a, fun _ => State.ofAddr_of_checkCsr, ?_⟩
  change _ ↔ (∀ c, ¬Csr.StandsAt a c) ∨ _
  cases hc : Csr.ofAddr a with
  | none =>
    refine iff_of_true (State.checkCsr_of_ofAddr_none hc) (.inl fun c hat => ?_)
    cases hc.symm.trans (Csr.ofAddr_of_standsAt hat)
  | some c =>
    have hat := Csr.standsAt_of_ofAddr hc
    obtain ⟨hfp, hcounter, hsatp⟩ := hat.groups
    have hnamed : ¬∀ c, ¬Csr.StandsAt a c := fun h => h c hat
    rw [State.checkCsr_eq_none_iff hc, or_iff_right hnamed, s.csrEnabled_eq_false_iff, hfp, hcounter, hsatp,
      Priv.bits_lt_slice_iff, readOnly_iff, s.counterEnabled_eq_false_iff, and_assoc]

/-! ## The instructions -/

/-- Instruction `i`, of word `w`, accesses the CSR at the address: it writes `new` of the old value there when `wr` holds, and
traps when the access is refused. -/
def AccessesCsr (i : Instr) (s : State) (w : BitVec 32) (a : BitVec 12) (wr : Bool) (new : Word → Word) (rd : Reg) : Prop :=
  (∀ c, s.checkCsr a wr = some c →
    let u := if wr then csrWrite s c (new (csrRead s c)) else s
    ∃ t, exec i s = .next t ∧ XBecomes rd (csrRead s c) s t ∧ RetiredAt (s.pc + 4#64) s t ∧ OnlyX u t) ∧
  (s.checkCsr a wr = none → Traps i s .illegalInstruction (w.setWidth 64))

/-- A result in `x[rd]` after a change of the state that keeps the integer registers, `pc` and `minstret`. -/
theorem writeX_after {s u : State} {rd : Reg} {v : Word} (hx : u.x = s.x) (hpc : u.pc = s.pc)
    (hret : u.minstret = s.minstret) :
    let t := (u.setX rd v).retire 4#64
    XBecomes rd v s t ∧ RetiredAt (s.pc + 4#64) s t ∧ OnlyX u t := by
  obtain ⟨⟨hzero, hrd, hother⟩, ⟨hnext, hcount⟩, honly⟩ := setX_retire_of_onlyWalk (OnlyWalk.refl u) rd v 4#64
  exact ⟨⟨hzero, hrd, fun r hr => (hother r hr).trans (getX_congr hx r)⟩, ⟨hpc ▸ hnext, hret ▸ hcount⟩, honly⟩

theorem accessesCsr_of {i : Instr} {s : State} {f3 : BitVec 3} {r : Reg} {a : BitVec 12} {wr : Bool} {new : Word → Word}
    {rd : Reg} (hi : i.WF) (he : encode i = Encode.i 0x73#7 f3 rd r a) (h : exec i s = csrInstr i a wr new rd s) :
    IsWord (iWord a r f3 rd 0x73#7) i ∧ AccessesCsr i s (iWord a r f3 rd 0x73#7) a wr new rd := by
  have hw := isWord_i hi he
  refine ⟨hw, fun c hc => ?_, fun hno => ?_⟩
  · have hdoes : csrInstr i a wr new rd s =
        writeX 4#64 rd (csrRead s c) (if wr then csrWrite s c (new (csrRead s c)) else s) := by rw [csrInstr, hc]
    refine ⟨_, h.trans hdoes, ?_⟩
    cases wr with
    | false => exact writeX_after rfl rfl rfl
    | true => exact writeX_after (csrWrite_x ..) (csrWrite_pc ..) (csrWrite_minstret ..)
  · have hillegal : csrInstr i a wr new rd s = illegal i s := by rw [csrInstr, hno]
    exact traps_of_illegal (h.trans hillegal) hw

/-- Settles O40: each instruction is one `csrInstr` with its own new value. -/
theorem csrInstructions : Obligations.CsrInstructions := by
  intro s rd rs1 uimm csr
  refine ⟨?csrrw, ?csrrs, ?csrrc, ?csrrwi, ?csrrsi, ?csrrci⟩
  case csrrw => exact accessesCsr_of (new := fun _ => s.getX rs1) rfl rfl rfl
  case csrrs => exact accessesCsr_of (new := fun old => old ||| s.getX rs1) rfl rfl rfl
  case csrrc => exact accessesCsr_of (new := fun old => old &&& ~~~s.getX rs1) rfl rfl rfl
  case csrrwi => exact accessesCsr_of (new := fun _ => immCsr uimm) rfl rfl rfl
  case csrrsi => exact accessesCsr_of (new := fun old => old ||| immCsr uimm) rfl rfl rfl
  case csrrci => exact accessesCsr_of (new := fun old => old &&& ~~~immCsr uimm) rfl rfl rfl

end Sys2Proof.Machine
end

section
/-! Family 48_privileged_system: environment calls and breakpoints, and the returns from a trap (48_privileged_system R670 to R673,
49_c_compressed R732). -/

namespace Sys2Proof.Machine

open Sys2Proof

/-! ## Words and modes -/

theorem getLsbD_setBit (w : Word) {i : Nat} (hi : i < 64) (b : Bool) (k : Nat) :
    (setBit w i b).getLsbD k = if k = i then b else w.getLsbD k := by
  have hone : (1#64 <<< i).getLsbD k = decide (k = i) := by
    rw [← BitVec.twoPow_eq, BitVec.getLsbD_twoPow]
    grind
  by_cases hk : k < 64
  · cases b <;> by_cases hki : k = i <;> simp [setBit, hone, hi, hk, hki, -BitVec.getLsbD_eq_getElem]
  · have hki : k ≠ i := by omega
    rw [if_neg hki, BitVec.getLsbD_of_ge _ k (by omega), BitVec.getLsbD_of_ge _ k (by omega)]

/-- Every number but the reserved 2 is that of its mode (10_state R91). -/
theorem Priv.bits_ofBits : ∀ {b : BitVec 2}, b ≠ 2#2 → (Priv.ofBits b).bits = b := by decide

theorem Priv.ofBits_eq_machine_iff : ∀ {b : BitVec 2}, b ≠ 2#2 → (Priv.ofBits b = .machine ↔ b = 3#2) := by decide

theorem isHalf_of_encode {w : BitVec 16} {i : Instr} (hi : i.WF) (h : encode i = .half w) : IsHalf w i :=
  ⟨h ▸ decode_encode hi, h⟩

/-! ## Where an exception is handled (60_exceptions R840 to R843) -/

theorem delegated_exception_iff (s : State) (code : Nat) :
    s.delegated false code = true ↔ s.priv ≠ .machine ∧ s.medeleg.getLsbD code = true := by
  simp only [State.delegated, Bool.and_eq_true, bne_iff_ne, Bool.false_eq_true, if_false]

theorem takeException_of_delegated {s : State} {e : Exc} (h : s.delegated false e.code = true) (tval : Word) :
    s.takeException e tval = { s.trapToS (BitVec.ofNat 64 e.code) s.pc tval with ilrsc := none } := by
  rw [State.takeException, State.takeTrap, if_pos h]
  rfl

theorem takeException_of_not_delegated {s : State} {e : Exc} (h : ¬s.delegated false e.code = true) (tval : Word) :
    s.takeException e tval = { s.trapToM (BitVec.ofNat 64 e.code) s.pc tval with ilrsc := none } := by
  rw [State.takeException, State.takeTrap, if_neg h]
  rfl

/-- The registers of M-mode hold an exception with this code, trap value and address. -/
def HandledInM (t : State) (code : Nat) (tval epc : Word) : Prop :=
  t.mcause = BitVec.ofNat 64 code ∧ t.mtval = tval ∧ t.priv = .machine ∧ t.mepc = epc &&& ~~~1#64

/-- The registers of S-mode hold an exception with this code, trap value and address. -/
def HandledInS (t : State) (code : Nat) (tval epc : Word) : Prop :=
  t.scause = BitVec.ofNat 64 code ∧ t.stval = tval ∧ t.priv = .supervisor ∧ t.sepc = epc &&& ~~~1#64

theorem takeException_handledInM {s : State} {e : Exc} (h : s.medeleg.getLsbD e.code = false ∨ s.priv = .machine) (tval : Word) :
    HandledInM (s.takeException e tval) e.code tval s.pc := by
  have hno : ¬s.delegated false e.code = true := fun hd => by
    obtain ⟨hpriv, hbit⟩ := (delegated_exception_iff s e.code).1 hd
    exact h.elim (fun hzero => Bool.false_ne_true (hzero.symm.trans hbit)) hpriv
  rw [takeException_of_not_delegated hno]
  exact ⟨rfl, rfl, trapToM_priv s (BitVec.ofNat 64 e.code) s.pc tval, rfl⟩

theorem takeException_handledInS {s : State} {e : Exc} (hbit : s.medeleg.getLsbD e.code = true) (hpriv : s.priv ≠ .machine)
    (tval : Word) : HandledInS (s.takeException e tval) e.code tval s.pc := by
  rw [takeException_of_delegated ((delegated_exception_iff s e.code).2 ⟨hpriv, hbit⟩)]
  exact ⟨rfl, rfl, trapToS_priv s (BitVec.ofNat 64 e.code) s.pc tval, rfl⟩

/-! ## Environment calls and breakpoints (48_privileged_system R670, R671; 49_c_compressed R732) -/

theorem ecallException_code (p : Priv) : (ecallException p).code = 8 + p.bits.toNat := by cases p <;> rfl

theorem traps_ecall (s : State) : Traps .ecall s (ecallException s.priv) 0#64 := rfl

theorem traps_ebreak (s : State) : Traps .ebreak s .breakpoint s.pc := rfl

theorem traps_cEbreak (s : State) : Traps .cEbreak s .breakpoint s.pc := rfl

/-- What a trap does besides: no register or memory changes, nothing retires, and the mode that handles it is told the code, the
trap value and the address. -/
theorem Traps.entry {i : Instr} {s : State} {e : Exc} {tval : Word} (h : Traps i s e tval) :
    ∃ t, exec i s = .next t ∧ SameX s t ∧ SameBytes s t ∧ t.minstret = s.minstret ∧ t.ilrsc = none ∧
      (s.medeleg.getLsbD e.code = false ∨ s.priv = .machine → HandledInM t e.code tval s.pc) ∧
      (s.medeleg.getLsbD e.code = true → s.priv ≠ .machine → HandledInS t e.code tval s.pc) :=
  ⟨_, h, getX_congr (takeException_x ..), fun a => congrArg (·.byte a) (takeException_mem ..), takeException_minstret ..,
    takeException_ilrsc .., fun hM => takeException_handledInM hM tval, fun hbit hpriv => takeException_handledInS hbit hpriv tval⟩

/-- Settles O44: all three instructions trap, so `Traps.entry` says what they do; the code of `ECALL` goes by the mode. -/
theorem callsAndBreakpoints : Obligations.CallsAndBreakpoints := by
  intro s
  refine ⟨⟨isWord_of_encode rfl rfl, isWord_of_encode rfl rfl, isHalf_of_encode rfl rfl⟩, ?user, ?supervisor, ?machine,
    traps_ebreak s, traps_cEbreak s, ?entry⟩
  case user | supervisor | machine =>
    intro hp
    have h := traps_ecall s
    rwa [hp] at h
  case entry =>
    rintro i (rfl | rfl | rfl)
    · have h := (traps_ecall s).entry
      rwa [ecallException_code] at h
    · exact (traps_ebreak s).entry
    · exact (traps_cEbreak s).entry

/-! ## The frame of a trap return (48_privileged_system R672, R673; 20_memory R262) -/

theorem withPriv_only (s : State) (p : Priv) :
    s.withPriv p =
      { s with priv := p, tlbRead := (s.withPriv p).tlbRead, tlbWrite := (s.withPriv p).tlbWrite,
               tlbCode := (s.withPriv p).tlbCode } := by
  unfold State.withPriv
  split
  · next h => rw [h]
  · rfl

/-- A change of mode empties the TLBs (20_memory R262). -/
theorem withPriv_flushes {s : State} {p : Priv} (h : p ≠ s.priv) :
    (s.withPriv p).tlbRead = [] ∧ (s.withPriv p).tlbWrite = [] ∧ (s.withPriv p).tlbCode = [] := by
  rw [State.withPriv, if_neg h]
  exact ⟨rfl, rfl, rfl⟩

/-- `t` is `s` after a return to `next` in the mode `p`: only `mstatus` and the TLBs are left open, and a change of mode empties
the TLBs. -/
def ReturnsTo (s t : State) (next : Word) (p : Priv) : Prop :=
  RetiredAt next s t ∧ t.priv = p ∧ (t.priv ≠ s.priv → t.tlbRead = [] ∧ t.tlbWrite = [] ∧ t.tlbCode = []) ∧
    t = { s with pc := next, minstret := t.minstret, mstatus := t.mstatus, priv := t.priv, tlbRead := t.tlbRead,
                 tlbWrite := t.tlbWrite, tlbCode := t.tlbCode }

/-- Both returns write `mstatus`, then the mode, then `pc`, and retire there. -/
theorem returnsTo_of_writes (s : State) (m next : Word) (p : Priv) :
    ReturnsTo s (State.retireHere { (s.withMstatus m).withPriv p with pc := next }) next p := by
  refine ⟨⟨rfl, ?retired⟩, withPriv_priv .., ?flushes, ?only⟩
  case retired => simp [State.retireHere]
  case flushes =>
    intro h
    have hp : p ≠ (s.withMstatus m).priv := by simpa [State.retireHere, State.retireTo] using h
    exact withPriv_flushes hp
  case only =>
    rw [withPriv_only, withMstatus_only]
    rfl

/-! ## MRET -/

theorem isWord_mret : IsWord 0x30200073#32 .mret := isWord_of_encode rfl rfl

theorem exec_mret_of_machine {s : State} (h : s.priv = .machine) : exec .mret s = .next s.returnFromM.retireHere := if_pos h

theorem exec_mret_of_not_machine {s : State} (h : s.priv ≠ .machine) : exec .mret s = illegal .mret s := if_neg h

/-- `MPP` must hold a mode, since returning to M-mode is what keeps `MPRV`. -/
theorem getLsbD_returnFromM_mstatus {s : State} (hmpp : slice s.mstatus 11 2 ≠ 2#2) (k : Nat) :
    s.returnFromM.mstatus.getLsbD k = if k = 3 then s.mstatus.getLsbD 7 else if k = 7 then true
      else if k = 11 ∨ k = 12 then false else if k = 17 then s.mstatus.getLsbD 17 && decide (slice s.mstatus 11 2 = 3#2)
      else s.mstatus.getLsbD k := by
  have hmachine : s.mpp = .machine ↔ slice s.mstatus 11 2 = 3#2 := Priv.ofBits_eq_machine_iff hmpp
  have hrest : (setField2 (setBit (setBit s.mstatus 3 s.mpieBit) 7 true) 11 0#2).getLsbD k =
      if k = 3 then s.mstatus.getLsbD 7 else if k = 7 then true else if k = 11 ∨ k = 12 then false
      else s.mstatus.getLsbD k := by
    rw [getLsbD_setField2 _ (by decide), getLsbD_setBit _ (by decide), getLsbD_setBit _ (by decide), State.mpieBit]
    grind
  rw [returnFromM_mstatus]
  by_cases hp : s.mpp = .machine
  · rw [if_pos hp, hrest, decide_eq_true (hmachine.1 hp)]
    grind
  · rw [if_neg hp, getLsbD_setBit _ (by decide), hrest, decide_eq_false (mt hmachine.2 hp)]
    grind

/-! ## SRET -/

theorem isWord_sret : IsWord 0x10200073#32 .sret := isWord_of_encode rfl rfl

theorem sretAllowed_iff (s : State) : s.sretAllowed = true ↔ s.priv = .machine ∨ (s.priv = .supervisor ∧ s.tsr = false) := by
  cases hp : s.priv <;> simp [State.sretAllowed, hp]

theorem sretAllowed_eq_false_iff (s : State) :
    s.sretAllowed = false ↔ s.priv = .user ∨ (s.priv = .supervisor ∧ s.tsr = true) := by
  cases hp : s.priv <;> simp [State.sretAllowed, hp]

theorem exec_sret_of_allowed {s : State} (h : s.sretAllowed = true) : exec .sret s = .next s.returnFromS.retireHere := if_pos h

theorem exec_sret_of_not_allowed {s : State} (h : s.sretAllowed = false) : exec .sret s = illegal .sret s :=
  if_neg (Bool.eq_false_iff.1 h)

theorem getLsbD_returnFromS_mstatus (s : State) (k : Nat) :
    s.returnFromS.mstatus.getLsbD k = if k = 1 then s.mstatus.getLsbD 5 else if k = 5 then true
      else if k = 8 ∨ k = 17 then false else s.mstatus.getLsbD k := by
  rw [returnFromS_mstatus, getLsbD_setBit _ (by decide), getLsbD_setBit _ (by decide), getLsbD_setBit _ (by decide),
    getLsbD_setBit _ (by decide), State.spieBit]
  grind

/-! ## The returns -/

/-- Settles O46: each return is split by the condition under which it is allowed. Both have the frame of `ReturnsTo`, each its own
bits of `mstatus`, and an illegal one traps with its own word. -/
theorem trapReturns : Obligations.TrapReturns := by
  refine ⟨⟨isWord_mret, fun s hmpp => ⟨?mret, ?mretIllegal⟩⟩, isWord_sret, fun s => ⟨?sret, ?sretIllegal⟩⟩
  case mret =>
    intro hp
    obtain ⟨hretired, hpriv, hflush, honly⟩ : ReturnsTo s s.returnFromM.retireHere s.mepc s.mpp := returnsTo_of_writes ..
    exact ⟨_, exec_mret_of_machine hp, hretired, getLsbD_returnFromM_mstatus hmpp, hpriv ▸ Priv.bits_ofBits hmpp, hflush, honly⟩
  case mretIllegal => exact fun hp => traps_of_illegal (exec_mret_of_not_machine hp) isWord_mret
  case sret =>
    intro h
    obtain ⟨hretired, hpriv, hflush, honly⟩ : ReturnsTo s s.returnFromS.retireHere s.sepc s.spp := returnsTo_of_writes ..
    exact ⟨_, exec_sret_of_allowed ((sretAllowed_iff s).2 h), hretired, getLsbD_returnFromS_mstatus s, hpriv, hflush, honly⟩
  case sretIllegal =>
    exact fun h => traps_of_illegal (exec_sret_of_not_allowed ((sretAllowed_eq_false_iff s).2 h)) isWord_sret

end Sys2Proof.Machine
end

section
/-! Family 60_exceptions: everything a step can do, said once (60_exceptions R800, R801, R803, R807, R871). -/

namespace Sys2Proof.Machine

open Sys2Proof

/-! ## One instruction -/

theorem runInstruction_of_fetched {s u : State} {w : Encoded} (h : fetch s = .ok w u) :
    runInstruction s = execFetched w u := by
  rw [runInstruction, h]

theorem runInstruction_of_raised {s u : State} {e : Exc} {tval : Word} (h : fetch s = .raised e tval u) :
    runInstruction s = .next (u.takeException e tval) := by
  rw [runInstruction, h]

theorem execFetched_of_decoded {w : Encoded} {i : Instr} (h : decode w = some i) (s : State) :
    execFetched w s = exec i s := by
  rw [execFetched, h]

theorem execFetched_of_reserved {w : Encoded} (h : decode w = none) (s : State) :
    execFetched w s = .next (s.takeException .illegalInstruction w.trapValue) := by
  rw [execFetched, h]

/-- The state that an operation leaves, whether it raises or not. -/
def Result.state {α : Type} : Result α → State
  | .ok _ s => s
  | .raised _ _ s => s

/-- After the fetch comes an exception or one instruction. -/
theorem runInstruction_cases (s : State) :
    ∃ t, runInstruction s = .next t ∧
      ((∃ e tval, t = (fetch s).state.takeException e tval) ∨ ∃ i, exec i (fetch s).state = .next t) := by
  cases hf : fetch s with
  | raised e tval u => exact ⟨_, runInstruction_of_raised hf, .inl ⟨e, tval, rfl⟩⟩
  | ok w u =>
    rw [runInstruction_of_fetched hf]
    cases hw : decode w with
    | none => exact ⟨_, execFetched_of_reserved hw u, .inl ⟨_, _, rfl⟩⟩
    | some i =>
      obtain ⟨t, ht, -⟩ := exec_hasEffect i u
      exact ⟨t, (execFetched_of_decoded hw u).trans ht, .inr ⟨i, ht⟩⟩

/-- A fetch changes what a walk changes. -/
theorem fetch_onlyWalk (s : State) : OnlyWalk s (fetch s).state := by
  rcases fetch_cases s with ⟨w, u, h, hw⟩ | ⟨e, tval, u, h, hw⟩ <;> rw [h] <;> exact hw

/-! ## One step -/

/-- The idle hart stays idle: its loop goes on, and no enabled interrupt is pending once the timer is sampled. -/
def State.Sleeps (s : State) : Prop := s.sampleTimer.idle = true ∧ s.sampleTimer.pend = 0#64

theorem runLoopStep_of_stopped {s : State} {r : RunReason} (h : s.runStatus = some r) : runLoopStep s = .next s := by
  rw [runLoopStep, h]

theorem runLoopStep_of_running {s : State} (h : s.runStatus = none) : runLoopStep s = hartStep s := by
  rw [runLoopStep, h]

theorem hartStep_of_sleeps {s : State} (h : s.Sleeps) : hartStep s = .next s.sampleTimer.wfiSkip := if_pos h

theorem hartStep_of_awake {s : State} (h : ¬s.Sleeps) : hartStep s = hartRun { s.sampleTimer with idle := false } :=
  if_neg h

/-- What an iteration of the run loop answers: the same state where the loop has returned, a skip of the idle hart, or the
interrupt check and one instruction. -/
inductive RunsTo (s : State) : State → Prop
  | stopped (r : RunReason) (h : s.runStatus = some r) : RunsTo s s
  | skip (h : s.runStatus = none) (hs : s.Sleeps) : RunsTo s s.sampleTimer.wfiSkip
  | run (t : State) (h : s.runStatus = none) (hs : ¬s.Sleeps)
      (hr : runInstruction (State.interruptCheck { s.sampleTimer with idle := false }) = .next t) : RunsTo s t.tick

theorem runLoopStep_cases (s : State) : ∃ t, runLoopStep s = .next t ∧ RunsTo s t := by
  cases hr : s.runStatus with
  | some r => exact ⟨s, runLoopStep_of_stopped hr, .stopped r hr⟩
  | none =>
    rw [runLoopStep_of_running hr]
    by_cases hs : s.Sleeps
    · exact ⟨_, hartStep_of_sleeps hs, .skip hr hs⟩
    · obtain ⟨t, ht, -⟩ := runInstruction_cases (State.interruptCheck { s.sampleTimer with idle := false })
      refine ⟨_, ?_, .run t hr hs ht⟩
      rw [hartStep_of_awake hs, hartRun, ht, mapNext]

/-- Everything a step can do. -/
theorem runsTo_of_step {s t : State} (h : step s = .next t) : RunsTo s.hostTurn t := by
  obtain ⟨u, hu, hr⟩ := runLoopStep_cases s.hostTurn
  cases h.symm.trans hu
  exact hr

/-- Settles O5: each of the three ends of an iteration is a next state. -/
theorem stepIsTotal : Obligations.StepIsTotal := by
  intro s
  obtain ⟨t, ht, -⟩ := runLoopStep_cases s.hostTurn
  exact ⟨t, ht⟩

end Sys2Proof.Machine
end

section
/-! Family 10_state: every operation on the state, and with them every step, keeps `State.Inv` (10_state section 5, 20_memory
section 8, 60_exceptions section 13). -/

namespace Sys2Proof.Machine

open Sys2Proof

/-! ## Words within a mask -/

theorem within_of_bits {w mask : Word} (h : ∀ k, mask.getLsbD k = false → w.getLsbD k = false) : Within w mask := by
  apply BitVec.eq_of_getLsbD_eq
  intro k hk
  rw [BitVec.getLsbD_and, BitVec.getLsbD_not, BitVec.getLsbD_zero]
  cases hm : mask.getLsbD k
  · rw [h k hm, Bool.false_and]
  · simp [hk]

theorem within_and (w mask : Word) : Within (w &&& mask) mask :=
  within_of_bits fun k hk => by rw [BitVec.getLsbD_and, hk, Bool.and_false]

theorem Within.trans {u v w : Word} (h : Within u v) (h' : Within v w) : Within u w :=
  within_of_bits fun _ hk => getLsbD_of_within h (getLsbD_of_within h' hk)

theorem Within.setBit {w mask : Word} (h : Within w mask) {i : Nat} (hi : mask.getLsbD i = true) (b : Bool) :
    Within (setBit w i b) mask := by
  refine within_of_bits fun k hk => ?_
  have hki : k ≠ i := by rintro rfl; exact Bool.false_ne_true (hk.symm.trans hi)
  rw [getLsbD_setBit w (BitVec.lt_of_getLsbD hi), if_neg hki]
  exact getLsbD_of_within h hk

theorem Within.mergeMask {m mask old : Word} (h : Within old mask) (hm : Within m mask) (new : Word) :
    Within (mergeMask m old new) mask := by
  refine within_of_bits fun k hk => ?_
  rw [getLsbD_mergeMask, getLsbD_of_within hm hk, if_neg Bool.false_ne_true]
  exact getLsbD_of_within h hk

/-- A slice is known by its bits in the word. -/
theorem slice_congr {n : Nat} {u w : BitVec n} {lo len : Nat} (h : ∀ k < len, u.getLsbD (lo + k) = w.getLsbD (lo + k)) :
    slice u lo len = slice w lo len := by
  apply BitVec.eq_of_getLsbD_eq
  intro k hk
  simp only [slice, BitVec.getLsbD_extractLsb', hk, decide_true, Bool.true_and]
  exact h k hk

/-! ## The words that `mstatus` may store (10_state R70) -/

/-- Bits of `W` only, and an `MPP` that is a mode. -/
structure LegalStatus (m : Word) : Prop where
  within : Within m mstatusMask
  mpp    : slice m 11 2 ≠ 2#2

/-- Two words with the same `MPP`. -/
theorem mpp_congr {u w : Word} (h : ∀ k, k = 11 ∨ k = 12 → u.getLsbD k = w.getLsbD k) : slice u 11 2 = slice w 11 2 :=
  slice_congr fun _ hk => h _ (by omega)

theorem LegalStatus.setBit {m : Word} (h : LegalStatus m) {i : Nat} (hi : mstatusMask.getLsbD i = true)
    (hmpp : i ≠ 11 ∧ i ≠ 12) (b : Bool) : LegalStatus (setBit m i b) := by
  have hfield : slice (Machine.setBit m i b) 11 2 = slice m 11 2 := mpp_congr fun k hk => by
    rw [getLsbD_setBit m (BitVec.lt_of_getLsbD hi), if_neg (by omega)]
  exact ⟨h.within.setBit hi b, hfield ▸ h.mpp⟩

theorem slice_setField2 (m : Word) (p : BitVec 2) : slice (setField2 m 11 p) 11 2 = p := by
  apply BitVec.eq_of_getLsbD_eq
  intro k hk
  simp only [slice, BitVec.getLsbD_extractLsb', getLsbD_setField2 m (i := 11) (by decide)]
  interval_cases k <;> simp

theorem LegalStatus.setMpp {m : Word} (h : Within m mstatusMask) {p : BitVec 2} (hp : p ≠ 2#2) :
    LegalStatus (setField2 m 11 p) := by
  refine ⟨within_of_bits fun k hk => ?_, (slice_setField2 m p).symm ▸ hp⟩
  have hk' : k ≠ 11 ∧ k ≠ 12 := by constructor <;> rintro rfl <;> exact absurd hk (by decide)
  rw [getLsbD_setField2 m (by decide), if_neg hk'.1, if_neg hk'.2]
  exact getLsbD_of_within h hk

theorem LegalStatus.dirty {m : Word} (h : LegalStatus m) : LegalStatus (m ||| 0x6000#64) := by
  refine ⟨within_of_bits fun k hk => ?_, ?_⟩
  · have hk' : k ≠ 13 ∧ k ≠ 14 := by constructor <;> rintro rfl <;> exact absurd hk (by decide)
    rw [dirty_elsewhere m k hk'.1 hk'.2]
    exact getLsbD_of_within h.within hk
  · have hfield : slice (m ||| 0x6000#64) 11 2 = slice m 11 2 :=
      mpp_congr fun k hk => dirty_elsewhere m k (by omega) (by omega)
    exact hfield ▸ h.mpp

/-- A write of `sstatus` leaves `MPP` alone. -/
theorem LegalStatus.writeSstatus {m : Word} (h : LegalStatus m) (v : Word) : LegalStatus (mergeMask sstatusWriteMask m v) := by
  refine ⟨h.within.mergeMask (by decide) v, ?_⟩
  have hfield : slice (mergeMask sstatusWriteMask m v) 11 2 = slice m 11 2 := mpp_congr fun k hk => by
    have hmask : sstatusWriteMask.getLsbD k = false := by rcases hk with rfl | rfl <;> rfl
    rw [getLsbD_mergeMask, hmask, if_neg Bool.false_ne_true]
  exact hfield ▸ h.mpp

/-- A write of `mstatus` stores the written `MPP` if it is a mode, and else the old one. -/
theorem LegalStatus.writeMstatus {m : Word} (h : LegalStatus m) (v : Word) :
    LegalStatus (if slice v 11 2 = 2#2 then setField2 (mergeMask mstatusMask m v) 11 (slice m 11 2)
      else mergeMask mstatusMask m v) := by
  have hwithin : Within (mergeMask mstatusMask m v) mstatusMask := h.within.mergeMask (by decide) v
  split
  · exact .setMpp hwithin h.mpp
  next hv =>
    have hfield : slice (mergeMask mstatusMask m v) 11 2 = slice v 11 2 := mpp_congr fun k hk => by
      have hmask : mstatusMask.getLsbD k = true := by rcases hk with rfl | rfl <;> rfl
      rw [getLsbD_mergeMask, hmask, if_pos rfl]
    exact ⟨hwithin, hfield ▸ hv⟩

theorem Priv.bits_ne_two (p : Priv) : p.bits ≠ 2#2 := by cases p <;> decide

/-! ## The TLBs (10_state R115) -/

theorem tlbWfFrom_mono {lo lo' : Nat} (h : lo' ≤ lo) {t : Tlb} (ht : tlbWfFrom lo t = true) : tlbWfFrom lo' t = true := by
  cases t with
  | nil => rfl
  | cons p rest =>
    simp only [tlbWfFrom, Bool.and_eq_true, decide_eq_true_eq] at ht ⊢
    obtain ⟨⟨hj, hj256⟩, hrest⟩ := ht
    exact ⟨⟨h.trans hj, hj256⟩, hrest⟩

theorem Tlb.put_wfFrom {t : Tlb} {i : Nat} (hi : i < 256) (e : TlbEntry) :
    ∀ {lo : Nat}, tlbWfFrom lo t = true → lo ≤ i → tlbWfFrom lo (t.put i e) = true := by
  induction t with
  | nil =>
    intro lo _ hlo
    simp [Tlb.put, tlbWfFrom, hi, hlo]
  | cons p rest ih =>
    intro lo ht hlo
    obtain ⟨j, e'⟩ := p
    simp only [tlbWfFrom, Bool.and_eq_true, decide_eq_true_eq] at ht
    obtain ⟨⟨hj, hj256⟩, hrest⟩ := ht
    rw [Tlb.put]
    split
    next hij =>
      simp only [tlbWfFrom, Bool.and_eq_true, decide_eq_true_eq]
      exact ⟨⟨hlo, hi⟩, ⟨hij, hj256⟩, hrest⟩
    next hij =>
      split
      next heq =>
        subst heq
        simp only [tlbWfFrom, Bool.and_eq_true, decide_eq_true_eq]
        exact ⟨⟨hlo, hi⟩, hrest⟩
      next hne =>
        simp only [tlbWfFrom, Bool.and_eq_true, decide_eq_true_eq]
        exact ⟨⟨hj, hj256⟩, ih hrest (by omega)⟩

theorem tlbIndex_lt (va : Word) : tlbIndex va < 256 := Nat.mod_lt _ (by decide)

/-! ## The operations on the state -/

theorem breakReservation_cases (o : Option Reservation) (a n : Nat) :
    breakReservation o a n = o ∨ breakReservation o a n = none := by
  cases o with
  | none => exact .inl rfl
  | some r =>
    rw [breakReservation]
    split
    · exact .inr rfl
    · exact .inl rfl

/-- The base of a vector is even, and the offset of an interrupt is a multiple of 4. -/
theorem even_trapVector (tvec cause : Word) : (trapVector tvec cause).getLsbD 0 = false := by
  have hbase : (tvec &&& ~~~3#64).getLsbD 0 = false := by simp
  rw [trapVector]
  split
  · refine even_add hbase ?_
    have hmul (w : Word) : 4#64 * w = w <<< 2 := by
      rw [shiftLeft_eq_ofNat, BitVec.mul_comm]
      exact BitVec.eq_of_toNat_eq (by simp [BitVec.toNat_mul])
    rw [hmul, BitVec.getLsbD_shiftLeft]
    simp
  · exact hbase

theorem even_clearBit0 (w : Word) : (w &&& ~~~1#64).getLsbD 0 = false := by simp

theorem clear_bit1 (w : Word) : (w &&& ~~~2#64).getLsbD 1 = false := by simp

namespace State.Inv

variable {s : State} (h : s.Inv)
include h

theorem legalStatus : LegalStatus s.mstatus := ⟨h.mstatus, h.mpp⟩

theorem setX (r : Reg) (v : Word) : (s.setX r v).Inv := by
  rw [setX_only]; exact { h with }

theorem setMstatus {m : Word} (hm : LegalStatus m) : State.Inv { s with mstatus := m } :=
  { h with mstatus := hm.within, mpp := hm.mpp }

theorem setF (r : Reg) (v : Word) : (s.setF r v).Inv := { h.setMstatus h.legalStatus.dirty with }

theorem dirtyFs : s.dirtyFs.Inv := h.setMstatus h.legalStatus.dirty

theorem accrue (fl : FFlags) : (s.accrue fl).Inv := by
  rw [State.accrue]
  split
  · exact h
  · exact { h.dirtyFs with }

theorem setPc {pc : Word} (hpc : pc.getLsbD 0 = false) : State.Inv { s with pc := pc } := { h with pc := hpc }

theorem retireTo {next : Word} (hn : next.getLsbD 0 = false) : (s.retireTo next).Inv := { h with pc := hn }

theorem retire {len : Word} (hl : len.getLsbD 0 = false) : (s.retire len).Inv := h.retireTo (even_add h.pc hl)

theorem flushTlbs : s.flushTlbs.Inv := { h with tlbRead := rfl, tlbWrite := rfl, tlbCode := rfl }

theorem setReservation {o : Option Reservation} (ho : ∀ r, o = some r → r.size = 4 ∨ r.size = 8) :
    State.Inv { s with ilrsc := o } := { h with ilrsc := ho }

theorem clearReservation : State.Inv { s with ilrsc := none } := h.setReservation nofun

theorem storeMem (a n : Nat) (v : Word) : (s.storeMem a n v).Inv := by
  refine { h.flushTlbs with mem := Memory.store_wf h.mem a n v.toNat, ilrsc := fun r hr => h.ilrsc r ?_ }
  rw [storeMem_ilrsc] at hr
  rcases breakReservation_cases s.ilrsc a n with hk | hk
  · rwa [hk] at hr
  · rw [hk] at hr; cases hr

theorem tlb (acc : Access) : tlbWfFrom 0 (s.tlb acc) = true := by
  cases acc
  exacts [h.tlbCode, h.tlbRead, h.tlbWrite]

theorem setTlb (acc : Access) {t : Tlb} (ht : tlbWfFrom 0 t = true) : (s.setTlb acc t).Inv := by
  cases acc
  exacts [{ h with tlbCode := ht }, { h with tlbRead := ht }, { h with tlbWrite := ht }]

theorem fillTlb (acc : Access) (va pa : Word) : (s.fillTlb acc va pa).Inv := by
  have hput (k : Nat) : (s.setTlb acc ((s.tlb acc).put (tlbIndex va) ⟨pageOf va, pageOf pa, k⟩)).Inv :=
    h.setTlb acc (Tlb.put_wfFrom (tlbIndex_lt va) _ (h.tlb acc) (Nat.zero_le _))
  unfold State.fillTlb
  split
  · split
    · split
      · exact hput _
      · exact h
    · exact h
  · exact h

theorem withMstatus {m : Word} (hm : LegalStatus m) : (s.withMstatus m).Inv := by
  rw [State.withMstatus]
  split
  · exact h.setMstatus hm
  · exact h.flushTlbs.setMstatus hm

theorem withPriv (p : Priv) : (s.withPriv p).Inv := by
  rw [State.withPriv]
  split
  · exact h
  · exact { h.flushTlbs with }

theorem setMip {m : Word} (hm : Within m 0xAAA#64) : State.Inv { s with mip := m } := { h with mip := hm }

/-! ## Translation and fetch -/

theorem leaf {va : Word} {acc : Access} {eff : Priv} {pa : Word} {s1 : State} {i a : Nat} {pte : Word} {e : PmaEntry}
    (hl : Leaf s va acc eff pa s1 i a pte e) : s1.Inv := by
  rcases hl.after with ⟨-, rfl⟩ | ⟨-, rfl⟩
  · exact h
  · exact h.storeMem ..

theorem translate (va : Word) (acc : Access) : (translate s va acc).state.Inv := by
  rcases translate_cases s va acc with ⟨-, ht⟩ | ⟨-, ⟨_, -, ht⟩ | ⟨-, ⟨_, ht, -⟩ | ⟨_, _, _, _, _, _, -, hl, ht⟩⟩⟩ <;> rw [ht]
  · exact h
  · exact h
  · exact h
  · exact (h.leaf hl).fillTlb ..

theorem translated {va pa : Word} {acc : Access} {s1 : State} (ht : Machine.translate s va acc = .ok pa s1) : s1.Inv := by
  have hinv := h.translate va acc
  rwa [ht] at hinv

omit h in
theorem bind {α β : Type} {r : Result α} {k : α → State → Result β} (hr : r.state.Inv)
    (hk : ∀ a u, u.Inv → (k a u).state.Inv) : (r.bind k).state.Inv := by
  cases r with
  | ok a u => exact hk a u hr
  | raised e tval u => exact hr

theorem fetchParcel (va : Word) : (fetchParcel s va).state.Inv := by
  refine bind (h.translate va .fetch) fun pa u hu => ?_
  split
  · exact hu
  · split <;> exact hu

theorem fetch : (fetch s).state.Inv := by
  rw [Machine.fetch]
  split
  · exact h
  · refine bind (h.fetchParcel _) fun lo u hu => ?_
    split
    · exact hu
    · exact bind (hu.fetchParcel _) fun _ _ hv => hv

/-! ## Traps and returns -/

theorem trapToS (cause epc tval : Word) : (s.trapToS cause epc tval).Inv := by
  have hm : LegalStatus (setBit (setBit (setBit s.mstatus 5 s.sieBit) 1 false) 8 (s.priv == .supervisor)) :=
    ((h.legalStatus.setBit rfl (by decide) _).setBit rfl (by decide) _).setBit rfl (by decide) _
  exact { (h.withMstatus hm).withPriv .supervisor with
    sepc := even_clearBit0 epc
    pc := even_trapVector s.stvec cause }

theorem trapToM (cause epc tval : Word) : (s.trapToM cause epc tval).Inv := by
  have hm : LegalStatus (setField2 (setBit (setBit s.mstatus 7 s.mieBit) 3 false) 11 s.priv.bits) :=
    .setMpp ((h.mstatus.setBit rfl _).setBit rfl _) s.priv.bits_ne_two
  exact { (h.withMstatus hm).withPriv .machine with
    mepc := even_clearBit0 epc
    pc := even_trapVector s.mtvec cause }

theorem takeTrap (isInt : Bool) (code : Nat) (epc tval : Word) : (s.takeTrap isInt code epc tval).Inv := by
  unfold State.takeTrap
  dsimp only
  split
  · exact (h.trapToS ..).clearReservation
  · exact (h.trapToM ..).clearReservation

theorem takeException (e : Exc) (tval : Word) : (s.takeException e tval).Inv := h.takeTrap ..

theorem returnFromM : s.returnFromM.Inv := by
  have hm : LegalStatus s.returnFromM.mstatus := by
    have hm1 : LegalStatus (setField2 (setBit (setBit s.mstatus 3 s.mpieBit) 7 true) 11 0#2) :=
      .setMpp ((h.mstatus.setBit rfl _).setBit rfl _) (by decide)
    rw [returnFromM_mstatus]
    split
    · exact hm1
    · exact hm1.setBit rfl (by decide) _
  rw [returnFromM_mstatus] at hm
  exact ((h.withMstatus hm).withPriv _).setPc h.mepc

theorem returnFromS : s.returnFromS.Inv := by
  have hm : LegalStatus (setBit (setBit (setBit (setBit s.mstatus 1 s.spieBit) 5 true) 8 false) 17 false) :=
    (((h.legalStatus.setBit rfl (by decide) _).setBit rfl (by decide) _).setBit rfl (by decide) _).setBit rfl (by decide) _
  exact ((h.withMstatus hm).withPriv _).setPc h.sepc

/-! ## CSRs and devices -/

theorem writeSatp (v : Word) : (s.writeSatp v).Inv := by
  rw [State.writeSatp]
  dsimp only
  split
  next hmode =>
    have hfields (m : BitVec 4) (p : BitVec 44) :
        slice (m ++ 0#16 ++ p) 60 4 = m ∧ slice (m ++ 0#16 ++ p) 44 16 = 0#16 := by
      constructor <;>
      · apply BitVec.eq_of_getLsbD_eq
        intro k hk
        simp only [slice, BitVec.getLsbD_extractLsb', BitVec.getLsbD_append]
        interval_cases k <;> simp
    obtain ⟨hm, ha⟩ := hfields (slice v 60 4) (slice v 0 44)
    exact { h.flushTlbs with satpMode := by rw [State.satpMode, hm]; exact hmode, satpAsid := ha }
  · exact h

theorem csrWrite (c : Csr) (v : Word) : (csrWrite s c v).Inv := by
  cases c
  case fflags | frm | fcsr => exact { h.dirtyFs with }
  case sstatus => exact h.withMstatus (h.legalStatus.writeSstatus v)
  case mstatus => exact h.withMstatus (h.legalStatus.writeMstatus v)
  case satp => exact h.writeSatp v
  case sie => exact { h with mie := h.mie.mergeMask (h.mideleg.trans (by decide)) v }
  case sip => exact h.setMip (h.mip.mergeMask ((within_of_bits fun k hk => by
    rw [BitVec.getLsbD_and, getLsbD_of_within (h.mideleg.trans (by decide)) hk, Bool.false_and])) v)
  case mip => exact h.setMip (h.mip.mergeMask (by decide) v)
  case mie => exact { h with mie := within_and v _ }
  case medeleg => exact { h with medeleg := within_and v _ }
  case mideleg => exact { h with mideleg := within_and v _ }
  case mcounteren => exact { h with mcounteren := within_and v _ }
  case scounteren => exact { h with scounteren := within_and v _ }
  case stvec => exact { h with stvec := clear_bit1 v }
  case mtvec => exact { h with mtvec := clear_bit1 v }
  case sepc => exact { h with sepc := even_clearBit0 v }
  case mepc => exact { h with mepc := even_clearBit0 v }
  case sscratch | scause | stval | mscratch | mcause | mtval => exact { h with }
  case cycle | time | instret | hpmcounter | mvendorid | marchid | mimpid | mhartid | misa | mcycle | minstret
      | mhpmcounter | mhpmevent =>
    exact h

theorem clintWrite {offset n : Nat} {v : Word} {t : State} (ht : clintWrite s offset n v = some t) : t.Inv := by
  unfold Machine.clintWrite at ht
  split_ifs at ht <;> cases ht
  · exact h.setMip (h.mip.setBit rfl _)
  · exact { h.setMip (h.mip.setBit (i := 7) rfl _) with }
  · exact h

theorem htifCommand (v : Word) : (s.htifCommand v).Inv := by
  unfold State.htifCommand
  dsimp only
  split_ifs <;> exact { h with }

theorem htifWrite {offset n : Nat} {v : Word} {t : State} (ht : htifWrite s offset n v = some t) : t.Inv := by
  unfold Machine.htifWrite at ht
  split_ifs at ht <;> cases ht
  · exact { h with }
  · exact h.htifCommand v

theorem physWrite {e : PmaEntry} {a n : Nat} {v : Word} {t : State} (ht : physWrite s e a n v = some t) : t.Inv := by
  unfold Machine.physWrite at ht
  split at ht
  · cases ht; exact h.storeMem ..
  · exact h.clintWrite ht
  · exact h.htifWrite ht

/-! ## Instructions -/

theorem effect {i : Instr} {t : State} (he : Effect i s t) : t.Inv := by
  cases he with
  | trap u e tval hu =>
    rcases hu with rfl | ⟨a, pa, -, ht⟩
    · exact h.takeException ..
    · exact (h.translated ht).takeException ..
  | toX rd v next hn hpc => exact (h.setX rd v).retireTo (hpc h.pc)
  | toF rd v fl => exact ((h.accrue fl).setF rd v).retire rfl
  | toXFlags rd v fl => exact ((h.accrue fl).setX rd v).retire rfl
  | loadX va pa n s1 rd v len ha ht hlen => exact ((h.translated ht).setX rd v).retire hlen
  | loadF va pa n s1 rd v len ha ht hfs hlen => exact ((h.translated ht).setF rd v).retire hlen
  | store va pa v len n s1 s2 e ha ht he hw hlen => exact ((h.translated ht).physWrite hw).retire hlen
  | reserve va pa n s1 rd v ha hsize ht =>
    have hr : State.Inv { s1 with ilrsc := some ⟨pa, n⟩ } :=
      (h.translated ht).setReservation fun r hr => by cases hr; exact hsize
    exact (hr.setX rd v).retire rfl
  | condStore va pa v n s1 rd ha ht => exact (((h.translated ht).storeMem ..).clearReservation.setX rd _).retire rfl
  | condSkip va pa n s1 rd ha ht => exact ((h.translated ht).clearReservation.setX rd _).retire rfl
  | amo va pa v old n s1 rd ha ht => exact (((h.translated ht).storeMem ..).setX rd old).retire rfl
  | csr a c wr v rd =>
    cases wr
    · exact (h.setX rd _).retire rfl
    · exact ((h.csrWrite c v).setX rd _).retire rfl
  | mret => exact h.returnFromM.retireTo h.mepc
  | sret => exact h.returnFromS.retireTo h.sepc
  | wfi => exact { h.retire (len := 4#64) rfl with }
  | sfence => exact h.flushTlbs.retire rfl

/-! ## The host -/

theorem hostStoreCsr (c : Csr) (v : Word) : (s.hostStoreCsr c v).Inv := by
  have hcsr := h.csrWrite c v
  cases c
  case mip => exact h.setMip (within_and v _)
  case mcycle | minstret | fflags | frm | fcsr => exact { h with }
  all_goals exact hcsr

theorem hostWriteMemory (paddr : Word) (bytes : List Byte) : (s.hostWriteMemory paddr bytes).Inv := by
  unfold State.hostWriteMemory
  split
  · split
    · exact { h.flushTlbs.clearReservation with mem := Memory.storeBytes_wf h.mem _ bytes }
    · exact h
  · exact h

theorem hostWriteReservation (o : Option Reservation) : (s.hostWriteReservation o).Inv := by
  unfold State.hostWriteReservation
  split
  · exact h.clearReservation
  · split
    next hsize => exact h.setReservation fun r hr => by cases hr; exact hsize
    · exact h

theorem deliverConsoleByte : s.deliverConsoleByte.Inv := by
  unfold State.deliverConsoleByte
  split
  · split
    · exact { h with }
    · exact h
  · exact h

theorem applyHost (a : HostAction) : (s.applyHost a).Inv := by
  cases a with
  | setExternalInterrupt meip seip => exact h.setMip ((h.mip.setBit rfl meip).setBit rfl seip)
  | deliverConsoleByte => exact h.deliverConsoleByte
  | writeX r v => exact h.setX r v
  | writePc v => exact h.setPc (even_clearBit0 v)
  | writePriv p => exact { h.flushTlbs with }
  | writeReservation r => exact h.hostWriteReservation r
  | writeCsr addr v =>
    rw [State.applyHost, State.hostWriteCsr]
    split
    · exact (h.hostStoreCsr _ v).flushTlbs
    · exact h
  | writeMemory paddr bytes => exact h.hostWriteMemory paddr bytes
  | requestExternal | clearExternal | resume | setDeadline | writeF | writeIdle | writeYielded | setHalted | writeTohost
    | writeFromhost | writeFromhostPending | writeMtimecmp => exact { h with }

omit h in
/-- The host's actions, one after the other. -/
theorem foldl_applyHost (actions : List HostAction) : ∀ {u : State}, u.Inv → (actions.foldl State.applyHost u).Inv := by
  induction actions with
  | nil => exact id
  | cons a rest ih => exact fun hu => ih (hu.applyHost a)

theorem hostTurn : s.hostTurn.Inv := by
  unfold State.hostTurn
  split
  · exact h
  · exact foldl_applyHost _ { h with }

/-! ## Steps -/

theorem sampleTimer : s.sampleTimer.Inv := by
  rw [State.sampleTimer]
  split
  · exact h.setMip (h.mip.setBit rfl _)
  · exact h

theorem wfiSkip : s.wfiSkip.Inv := by
  unfold State.wfiSkip
  dsimp only
  split <;> exact { h with }

theorem interruptCheck : s.interruptCheck.Inv := by
  unfold State.interruptCheck
  split
  · exact h.takeTrap ..
  · exact h

theorem runInstruction {t : State} (ht : runInstruction s = .next t) : t.Inv := by
  obtain ⟨u, hu, hcases⟩ := runInstruction_cases s
  cases ht.symm.trans hu
  rcases hcases with ⟨e, tval, rfl⟩ | ⟨i, hi⟩
  · exact h.fetch.takeException e tval
  · exact h.fetch.effect (effect_of_exec hi)

theorem runsTo {t : State} (hr : RunsTo s t) : t.Inv := by
  cases hr with
  | stopped => exact h
  | skip => exact h.sampleTimer.wfiSkip
  | run u _ _ hu =>
    have hawake : State.Inv { s.sampleTimer with idle := false } := { h.sampleTimer with }
    exact { hawake.interruptCheck.runInstruction hu with }

end State.Inv

/-- Settles O4: the host's turn and each of the three ends of an iteration keep the invariant. -/
theorem stepKeepsInv : Obligations.StepKeepsInv := fun _ _ h ht => h.hostTurn.runsTo (runsTo_of_step ht)

end Sys2Proof.Machine
end

section
/-! Family 60_exceptions: the stages of a step, a stopped hart, the idle hart and the counters (60_exceptions R800, R801, R805,
R807, R860, R871, R872). -/

namespace Sys2Proof.Machine

open Sys2Proof

/-! ## Timer sampling (60_exceptions R860) -/

theorem sampleTimer_only (s : State) : s.sampleTimer = { s with mip := s.sampleTimer.mip } := by
  rw [State.sampleTimer]
  split <;> rfl

@[simp] theorem sampleTimer_idle (s : State) : s.sampleTimer.idle = s.idle := by rw [sampleTimer_only]
@[simp] theorem sampleTimer_mtimecmp (s : State) : s.sampleTimer.mtimecmp = s.mtimecmp := by rw [sampleTimer_only]
@[simp] theorem sampleTimer_mcycle (s : State) : s.sampleTimer.mcycle = s.mcycle := by rw [sampleTimer_only]
@[simp] theorem sampleTimer_minstret (s : State) : s.sampleTimer.minstret = s.minstret := by rw [sampleTimer_only]
@[simp] theorem sampleTimer_mcycleEnd (s : State) : s.sampleTimer.mcycleEnd = s.mcycleEnd := by rw [sampleTimer_only]
@[simp] theorem sampleTimer_cfg (s : State) : s.sampleTimer.cfg = s.cfg := by rw [sampleTimer_only]

/-- Sampling does not look at the idle flag. -/
theorem sampleTimer_of_idle (s : State) (b : Bool) :
    State.sampleTimer { s with idle := b } = { s.sampleTimer with idle := b } := by
  change (if s.mtimecmp ≤ s.mtime then _ else _) = _
  rw [State.sampleTimer]
  split <;> rfl

theorem getLsbD_sampleTimer_mip (s : State) (k : Nat) :
    s.sampleTimer.mip.getLsbD k = if k = 7 then s.mip.getLsbD 7 || decide (s.mtimecmp ≤ s.mtime) else s.mip.getLsbD k := by
  rw [State.sampleTimer]
  split
  next hdue => rw [getLsbD_setBit s.mip (by decide), decide_eq_true hdue, Bool.or_true]
  next hdue =>
    rw [decide_eq_false hdue, Bool.or_false]
    split
    next hk => rw [hk]
    · rfl

/-! ## When the loop goes on (60_exceptions R807) -/

theorem hostTurn_of_nil {s : State} (h : s.hostInputs = []) : s.hostTurn = s := by
  rw [State.hostTurn, h]

theorem step_of_nil {s : State} (h : s.hostInputs = []) : step s = runLoopStep s := by
  rw [step, hostTurn_of_nil h]

theorem runStatus_of_halted {s : State} (h : s.halted = true) : s.runStatus = some .halted := if_pos h

theorem runStatus_of_yielded {s : State} (hh : s.halted = false) (hy : s.yielded = true) :
    s.runStatus = some (if slice s.tohost 48 8 = 0#8 then .yieldedAutomatically else .yieldedManually) := by
  rw [State.runStatus, hh, hy, if_neg Bool.false_ne_true, if_pos rfl]

theorem runStatus_of_due {s : State} (hh : s.halted = false) (hy : s.yielded = false)
    (h : s.extReq = true ∨ s.mcycleEnd.toNat ≤ s.mcycle.toNat) : s.runStatus = some .reachedTargetMcycle := by
  rw [State.runStatus, hh, hy, if_neg Bool.false_ne_true, if_neg Bool.false_ne_true]
  split
  · rfl
  next hext => exact if_pos (BitVec.le_def.mpr (h.resolve_left hext))

/-- The four conditions for which the loop returns. -/
theorem running_of_runStatus {s : State} (h : s.runStatus = none) :
    s.halted = false ∧ s.yielded = false ∧ s.extReq = false ∧ s.mcycle.toNat < s.mcycleEnd.toNat := by
  cases hh : s.halted
  case true => cases h.symm.trans (runStatus_of_halted hh)
  cases hy : s.yielded
  case true => cases h.symm.trans (runStatus_of_yielded hh hy)
  have hdue : ¬(s.extReq = true ∨ s.mcycleEnd.toNat ≤ s.mcycle.toNat) := fun hd => by
    cases h.symm.trans (runStatus_of_due hh hy hd)
  obtain ⟨hext, hend⟩ := not_or.mp hdue
  exact ⟨rfl, rfl, Bool.eq_false_iff.mpr hext, Nat.lt_of_not_le hend⟩

/-! ## A running hart (60_exceptions R800) -/

theorem idle_false_of_eq {s : State} (h : s.idle = false) : { s with idle := false } = s := by
  rw [← h]

theorem step_of_awake {s : State} (hin : s.hostInputs = []) (hr : s.runStatus = none) (hi : s.idle = false) :
    step s = mapNext State.tick (runInstruction s.sampleTimer.interruptCheck) := by
  have hidle : s.sampleTimer.idle = false := (sampleTimer_idle s).trans hi
  have hawake : ¬s.Sleeps := fun hs => Bool.false_ne_true (hidle.symm.trans hs.1)
  rw [step_of_nil hin, runLoopStep_of_running hr, hartStep_of_awake hawake, idle_false_of_eq hidle, hartRun]

/-- Settles O10: the three outcomes of fetch and decode. -/
theorem stepRunsDecodedInstruction : Obligations.StepRunsDecodedInstruction := by
  intro s hin hr hi
  refine ⟨fun w s2 i hf hd => ?_, fun w s2 hf hd => ?_, fun e tval s2 hf => ?_⟩ <;> rw [step_of_awake hin hr hi]
  · rw [runInstruction_of_fetched hf, execFetched_of_decoded hd]
  · rw [runInstruction_of_fetched hf, execFetched_of_reserved hd, mapNext]
  · rw [runInstruction_of_raised hf, mapNext]

/-! ## The idle hart (60_exceptions R871, R872) -/

theorem wfiSkip_eq (s : State) :
    s.wfiSkip = { s with
      mcycle := if s.mip.getLsbD 7 = false ∧ s.mtimecmp.toNat * s.cfg.rtcFreqDiv < 2 ^ 64 then
          BitVec.ofNat 64 (min s.mcycleEnd.toNat (s.mtimecmp.toNat * s.cfg.rtcFreqDiv))
        else s.mcycleEnd } := by
  unfold State.wfiSkip
  dsimp only
  split <;> rfl

/-- Settles O48: sampling bit by bit, then the two branches of the idle hart. -/
theorem timerAndIdle : Obligations.TimerAndIdle := by
  refine ⟨fun s => ⟨getLsbD_sampleTimer_mip s, sampleTimer_only s⟩, fun s hin hr hi => ⟨fun hp => ?_, fun hp => ?_⟩⟩
  · have hsleeps : s.Sleeps := ⟨(sampleTimer_idle s).trans hi, hp⟩
    rw [step_of_nil hin, runLoopStep_of_running hr, hartStep_of_sleeps hsleeps, wfiSkip_eq, sampleTimer_mtimecmp,
      sampleTimer_mcycleEnd, sampleTimer_cfg]
  · have hwakes : ¬s.Sleeps := fun hs => hp hs.2
    have hstep : step { s with idle := false } =
        mapNext State.tick (runInstruction (State.sampleTimer { s with idle := false }).interruptCheck) :=
      step_of_awake hin hr rfl
    rw [hstep, sampleTimer_of_idle, step_of_nil hin, runLoopStep_of_running hr, hartStep_of_awake hwakes, hartRun]

/-! ## A stopped hart (60_exceptions R801, R807; 10_state R93) -/

/-- No action of the host clears the halted flag. -/
theorem applyHost_halted {s : State} (h : s.halted = true) (a : HostAction) : (s.applyHost a).halted = true := by
  cases a with
  | setHalted => rfl
  | writeX r v => exact (setX_halted s r v).trans h
  | writeCsr addr v =>
    rw [State.applyHost, State.hostWriteCsr]
    split
    · rw [flushTlbs_halted, s.hostStoreCsr_frame]
      exact h
    · exact h
  | deliverConsoleByte =>
    rw [State.applyHost, State.deliverConsoleByte]
    split
    · split <;> exact h
    · exact h
  | writeMemory pa bytes =>
    rw [State.applyHost, State.hostWriteMemory]
    split
    · split <;> exact h
    · exact h
  | writeReservation o =>
    rw [State.applyHost]
    unfold State.hostWriteReservation
    split
    · exact h
    · split <;> exact h
  | requestExternal | clearExternal | resume | setExternalInterrupt | setDeadline | writeF | writePc | writePriv | writeIdle
    | writeYielded | writeTohost | writeFromhost | writeFromhostPending | writeMtimecmp => exact h

theorem foldl_applyHost_halted (actions : List HostAction) :
    ∀ {s : State}, s.halted = true → (actions.foldl State.applyHost s).halted = true := by
  induction actions with
  | nil => exact id
  | cons a rest ih => exact fun h => ih (applyHost_halted h a)

theorem hostTurn_halted {s : State} (h : s.halted = true) : s.hostTurn.halted = true := by
  rw [State.hostTurn]
  split
  · exact h
  · exact foldl_applyHost_halted _ h

/-- A halted hart does not run. -/
theorem RunsTo.halted {s t : State} (hr : RunsTo s t) (h : s.halted = true) : t.halted = true := by
  cases hr with
  | stopped => exact h
  | skip hn | run _ hn => cases hn.symm.trans (runStatus_of_halted h)

/-- Settles O49: a status other than none stops the loop, and the host cannot clear the flag. -/
theorem stoppedHartStays : Obligations.StoppedHartStays := by
  refine ⟨fun s hin => ⟨fun hstop => ?_, runStatus_of_halted, runStatus_of_yielded, runStatus_of_due⟩,
    fun s t h ht => (runsTo_of_step ht).halted (hostTurn_halted h)⟩
  rw [step_of_nil hin]
  cases hr : s.runStatus with
  | some r => exact runLoopStep_of_stopped hr
  | none =>
    obtain ⟨hh, hy, hext, hend⟩ := running_of_runStatus hr
    simp [hh, hy, hext, Nat.not_le.mpr hend] at hstop

/-! ## What an instruction does to the counters (60_exceptions R805) -/

/-- What a store may change: what a walk may, and the registers and flags of the devices. -/
def StoreFrame (s t : State) : Prop :=
  t = { s with mem := t.mem, ilrsc := t.ilrsc, tlbRead := t.tlbRead, tlbWrite := t.tlbWrite, tlbCode := t.tlbCode,
               mip := t.mip, mtimecmp := t.mtimecmp, tohost := t.tohost, fromhost := t.fromhost,
               fromhostPending := t.fromhostPending, consoleOut := t.consoleOut, halted := t.halted, yielded := t.yielded }

theorem OnlyWalk.storeFrame {s t : State} (h : OnlyWalk s t) : StoreFrame s t := by
  rw [h]; rfl

theorem StoreFrame.trans {s t u : State} (h : StoreFrame s t) (h' : StoreFrame t u) : StoreFrame s u := by
  rw [StoreFrame] at *; rw [h']; rw [h]

theorem clintWrite_storeFrame {s t : State} {offset n : Nat} {v : Word} (h : clintWrite s offset n v = some t) :
    StoreFrame s t := by
  unfold clintWrite at h
  split_ifs at h <;> cases h <;> rfl

theorem htifWrite_storeFrame {s t : State} {offset n : Nat} {v : Word} (h : htifWrite s offset n v = some t) :
    StoreFrame s t := by
  unfold htifWrite at h
  split_ifs at h <;> cases h
  · rfl
  · unfold State.htifCommand
    dsimp only
    split_ifs <;> rfl

theorem physWrite_storeFrame {s t : State} {e : PmaEntry} {a n : Nat} {v : Word} (h : physWrite s e a n v = some t) :
    StoreFrame s t := by
  unfold physWrite at h
  split at h
  · cases h; exact (OnlyWalk.storeMem s a n v).storeFrame
  · exact clintWrite_storeFrame h
  · exact htifWrite_storeFrame h

/-- A translated store, before it retires. -/
theorem storeFrame_of_translated {s s1 s2 : State} {va pa : Word} {acc : Access} {e : PmaEntry} {a n : Nat} {v : Word}
    (ht : translate s va acc = .ok pa s1) (hw : physWrite s1 e a n v = some s2) : StoreFrame s s2 :=
  (translate_onlyWalk ht).storeFrame.trans (physWrite_storeFrame hw)

/-- The trap registers of both modes are the same. -/
def SameTrapRegs (s t : State) : Prop :=
  t.mcause = s.mcause ∧ t.mepc = s.mepc ∧ t.mtval = s.mtval ∧ t.scause = s.scause ∧ t.sepc = s.sepc ∧ t.stval = s.stval

theorem StoreFrame.sameTrapRegs {s t : State} (h : StoreFrame s t) : SameTrapRegs s t := by
  rw [h]
  exact ⟨rfl, rfl, rfl, rfl, rfl, rfl⟩

theorem StoreFrame.minstret {s t : State} (h : StoreFrame s t) : t.minstret = s.minstret := by rw [h]
theorem StoreFrame.mcycle {s t : State} (h : StoreFrame s t) : t.mcycle = s.mcycle := by rw [h]

theorem Effect.mcycle {i : Instr} {s t : State} (h : Effect i s t) : t.mcycle = s.mcycle := by
  cases h with
  | trap u e tval hu => exact (takeException_mcycle u e tval).trans (onlyWalk_of_trap hu).mcycle
  | toX | toF | toXFlags | wfi | sfence => simp
  | mret | sret => simp [State.retireHere]
  | csr a c wr v rd => cases wr <;> simp
  | store _ _ _ len _ _ _ _ _ ht _ hw => exact (storeFrame_of_translated ht hw).mcycle
  | loadX _ _ _ _ _ _ _ _ ht | loadF _ _ _ _ _ _ _ _ ht | reserve _ _ _ _ _ _ _ _ ht | condStore _ _ _ _ _ _ _ ht
  | condSkip _ _ _ _ _ _ ht | amo _ _ _ _ _ _ _ _ ht => simpa using (translate_onlyWalk ht).mcycle

/-- An instruction is abandoned in an exception, or it retires; then only a CSR instruction writes a trap register. -/
theorem Effect.abandoned_or_retired {i : Instr} {s t : State} (h : Effect i s t) :
    (AbandonedBy i s t ∧ t.minstret = s.minstret) ∨
      (t.minstret = s.minstret + 1#64 ∧ (¬isCsr i → SameTrapRegs s t)) := by
  cases h with
  | trap u e tval hu =>
    exact .inl ⟨⟨u, e, tval, hu, rfl⟩, (takeException_minstret u e tval).trans (onlyWalk_of_trap hu).minstret⟩
  | toX | toF | toXFlags | wfi | sfence => exact .inr (by simp [SameTrapRegs])
  | mret | sret => exact .inr (by simp [SameTrapRegs, State.retireHere])
  | csr a c wr v rd hi => exact .inr ⟨by cases wr <;> simp, fun hn => absurd hi hn⟩
  | store _ _ _ len _ _ _ _ _ ht _ hw =>
    have hs := storeFrame_of_translated ht hw
    exact .inr ⟨by rw [retire_minstret, hs.minstret], fun _ => hs.sameTrapRegs⟩
  | loadX _ _ _ _ _ _ _ _ ht | loadF _ _ _ _ _ _ _ _ ht | reserve _ _ _ _ _ _ _ _ ht | condStore _ _ _ _ _ _ _ ht
  | condSkip _ _ _ _ _ _ ht | amo _ _ _ _ _ _ _ _ ht =>
    have hw := translate_onlyWalk ht
    exact .inr ⟨by simp [hw.minstret], fun _ => by simpa [SameTrapRegs] using hw.storeFrame.sameTrapRegs⟩

theorem Effect.minstret {i : Instr} {s t : State} (h : Effect i s t) :
    t.minstret = s.minstret ∨ t.minstret = s.minstret + 1#64 :=
  h.abandoned_or_retired.imp And.right And.left

/-! ## What a step does to the counters -/

theorem interruptCheck_mcycle (s : State) : s.interruptCheck.mcycle = s.mcycle := by
  rw [State.interruptCheck]
  split <;> simp

theorem interruptCheck_minstret (s : State) : s.interruptCheck.minstret = s.minstret := by
  rw [State.interruptCheck]
  split <;> simp

theorem runInstruction_counters {s t : State} (h : runInstruction s = .next t) :
    t.mcycle = s.mcycle ∧ (t.minstret = s.minstret ∨ t.minstret = s.minstret + 1#64) := by
  obtain ⟨u, hu, hcases⟩ := runInstruction_cases s
  cases h.symm.trans hu
  have hf := fetch_onlyWalk s
  rw [← hf.mcycle, ← hf.minstret]
  rcases hcases with ⟨e, tval, rfl⟩ | ⟨i, hi⟩
  · exact ⟨takeException_mcycle .., .inl (takeException_minstret ..)⟩
  · exact ⟨(effect_of_exec hi).mcycle, (effect_of_exec hi).minstret⟩

/-- Settles O50: the hart does not sleep, and no stage before the last action writes `mcycle`. -/
theorem countersAdvance : Obligations.CountersAdvance := by
  intro s t hin hr hwake ht
  have hruns := runsTo_of_step ht
  rw [hostTurn_of_nil hin] at hruns
  cases hruns with
  | stopped r h => cases hr.symm.trans h
  | skip _ hs =>
    obtain ⟨hidle, hpend⟩ := hs
    exact absurd hpend (hwake ((sampleTimer_idle s).symm.trans hidle))
  | run u _ _ hu =>
    obtain ⟨hcycle, hinstret⟩ := runInstruction_counters hu
    rw [interruptCheck_mcycle, sampleTimer_mcycle] at hcycle
    rw [interruptCheck_minstret, sampleTimer_minstret] at hinstret
    exact ⟨by rw [tick_mcycle, hcycle], hinstret⟩

end Sys2Proof.Machine
end

section
/-! Family 60_exceptions: what each action of the host does (60_exceptions section 13). -/

namespace Sys2Proof.Machine

open Sys2Proof

/-! ## External interrupts and the console (60_exceptions R823, R882) -/

theorem getLsbD_setExternalInterrupt (s : State) (meip seip : Bool) (k : Nat) :
    (s.setExternalInterrupt meip seip).mip.getLsbD k =
      if k = 11 then meip else if k = 9 then seip else s.mip.getLsbD k := by
  rw [State.setExternalInterrupt, getLsbD_setBit _ (by decide), getLsbD_setBit s.mip (by decide)]
  by_cases h11 : k = 11
  · rw [if_neg (by omega), if_pos h11, if_pos h11]
  · rw [if_neg h11, if_neg h11]

/-- The device 1, command 0 word of a console byte. -/
theorem consoleWord_eq (b : Byte) : (1#8 ++ 0#48 ++ b : Word) = BitVec.ofNat 64 (2 ^ 56 + b.toNat) := by
  apply BitVec.eq_of_toNat_eq
  have hb := b.isLt
  rw [BitVec.toNat_append, ← Nat.shiftLeft_add_eq_or_of_lt hb, BitVec.toNat_ofNat, Nat.mod_eq_of_lt (by omega)]
  simp

theorem deliverConsoleByte_of_allowed {s : State} {b : Byte} {rest : List Byte} (hi : s.cfg.interactive = true)
    (hc : s.cfg.iconsole.getLsbD 0 = true) (hp : s.fromhostPending = false) (hin : s.consoleIn = b :: rest) :
    s.deliverConsoleByte =
      { s with fromhost := BitVec.ofNat 64 (2 ^ 56 + b.toNat), fromhostPending := true, consoleIn := rest } := by
  rw [State.deliverConsoleByte, if_pos ⟨hi, hc, hp⟩, hin, ← consoleWord_eq]

theorem deliverConsoleByte_of_refused {s : State}
    (h : s.cfg.interactive = false ∨ s.cfg.iconsole.getLsbD 0 = false ∨ s.fromhostPending = true ∨ s.consoleIn = []) :
    s.deliverConsoleByte = s := by
  rw [State.deliverConsoleByte]
  split
  next hallowed =>
    obtain ⟨hi, hc, hp⟩ := hallowed
    have hin : s.consoleIn = [] := by
      rw [hi, hc, hp] at h
      simpa using h
    rw [hin]
  · rfl

/-! ## Registers (60_exceptions R883 to R885) -/

theorem applyHost_writeX (s : State) (r : Reg) (v : Word) :
    XBecomes r v s (s.applyHost (.writeX r v)) ∧
      s.applyHost (.writeX r v) = { s with x := (s.applyHost (.writeX r v)).x } :=
  ⟨setX_becomes s _ r v rfl, setX_only s r v⟩

theorem applyHost_writeF (s : State) (r : Reg) (v : Word) : FBecomes r v s (s.applyHost (.writeF r v)) := by
  have hget (q : Reg) : (s.applyHost (.writeF r v)).getF q = if q = r then v else s.getF q :=
    (getF_congr (s := s.setF r v) rfl q).trans (getF_setF s r q v)
  exact ⟨(hget r).trans (if_pos rfl), fun q hq => (hget q).trans (if_neg hq)⟩

theorem clearBit0_eq_ofNat (v : Word) : v &&& ~~~1#64 = BitVec.ofNat 64 (v.toNat / 2 * 2) := by
  simpa [jalrTarget] using jalrTarget_eq_ofNat v 0#64

theorem hostWriteReservation_some (s : State) (r : Reservation) :
    s.hostWriteReservation (some r) = if r.size = 4 ∨ r.size = 8 then { s with ilrsc := some r } else s := rfl

/-! ## CSRs (60_exceptions R885) -/

theorem hostWriteCsr_of_none {s : State} {addr : BitVec 12} (h : Csr.ofAddr addr = none) (v : Word) :
    s.hostWriteCsr addr v = s := by
  rw [State.hostWriteCsr, h]

theorem hostWriteCsr_of_some {s : State} {addr : BitVec 12} {c : Csr} (h : Csr.ofAddr addr = some c) (v : Word) :
    s.hostWriteCsr addr v = (s.hostStoreCsr c v).flushTlbs := by
  rw [State.hostWriteCsr, h]

/-- Only six registers have a rule of the host's own. -/
theorem hostStoreCsr_eq_csrWrite {c : Csr} (h : c ∉ ([.mcycle, .minstret, .mip, .fflags, .frm, .fcsr] : List Csr)) (s : State)
    (v : Word) : s.hostStoreCsr c v = csrWrite s c v := by
  cases c
  case mcycle | minstret | mip | fflags | frm | fcsr => simp at h
  all_goals rfl

/-! ## Memory (60_exceptions R885) -/

theorem hostWriteMemory_of_memory {s : State} {pa : Word} {bytes : List Byte} {e : PmaEntry}
    (he : findPma s.cfg.pma pa.toNat bytes.length = some e) (hk : e.kind = .memory) :
    s.hostWriteMemory pa bytes = { s.flushTlbs with mem := s.mem.storeBytes pa.toNat bytes, ilrsc := none } := by
  rw [State.hostWriteMemory, he]
  exact if_pos hk

theorem hostWriteMemory_of_elsewhere {s : State} {pa : Word} {bytes : List Byte}
    (h : ∀ e, findPma s.cfg.pma pa.toNat bytes.length = some e → e.kind ≠ .memory) : s.hostWriteMemory pa bytes = s := by
  rw [State.hostWriteMemory]
  split
  next e he => exact if_neg (h e he)
  · rfl

theorem byte_storeBytes_inside {m : Memory} (hm : m.wf = true) {a k : Nat} {bytes : List Byte} {b : Byte}
    (hb : bytes[k]? = some b) : (m.storeBytes a bytes).byte (a + k) = b := by
  obtain ⟨hk, hget⟩ := List.getElem?_eq_some_iff.mp hb
  rw [Memory.byte_storeBytes hm, if_pos ⟨by omega, by omega⟩, Nat.add_sub_cancel_left, List.getD_eq_getElem?_getD, hb,
    Option.getD_some]

theorem byte_storeBytes_outside {m : Memory} (hm : m.wf = true) {a q : Nat} {bytes : List Byte}
    (hq : q < a ∨ a + bytes.length ≤ q) : (m.storeBytes a bytes).byte q = m.byte q := by
  rw [Memory.byte_storeBytes hm, if_neg (by omega)]

/-! ## The actions -/

theorem hostActions_csr (s : State) :
    (∀ addr v, Csr.ofAddr addr = none → s.applyHost (.writeCsr addr v) = s) ∧
      ∀ addr c v, Csr.ofAddr addr = some c →
        let t := s.applyHost (.writeCsr addr v)
        t.tlbRead = [] ∧ t.tlbWrite = [] ∧ t.tlbCode = [] ∧
        (c = .mcycle → t = { s.flushTlbs with mcycle := v }) ∧ (c = .minstret → t = { s.flushTlbs with minstret := v }) ∧
        (c = .mip → t = { s.flushTlbs with mip := v &&& 0xAAA#64 }) ∧
        (c = .fflags ∨ c = .frm ∨ c = .fcsr → t = { s.flushTlbs with fcsr := (csrWrite s c v).fcsr }) ∧
        (c ∉ [.mcycle, .minstret, .mip, .fflags, .frm, .fcsr] → t = (csrWrite s c v).flushTlbs) := by
  refine ⟨fun addr v h => hostWriteCsr_of_none h v, fun addr c v h => ?_⟩
  have ht : s.applyHost (.writeCsr addr v) = (s.hostStoreCsr c v).flushTlbs := hostWriteCsr_of_some h v
  rw [ht]
  refine ⟨rfl, rfl, rfl, ?_, ?_, ?_, ?_, fun hc => by rw [hostStoreCsr_eq_csrWrite hc]⟩
  · rintro rfl; rfl
  · rintro rfl; rfl
  · rintro rfl; rfl
  · rintro (rfl | rfl | rfl) <;> rfl

theorem hostActions_memory (s : State) (pa : Word) (bytes : List Byte) (hm : s.mem.wf = true) :
    let t := s.applyHost (.writeMemory pa bytes)
    (∀ e, findPma s.cfg.pma pa.toNat bytes.length = some e → e.kind = .memory →
      (∀ k b, bytes[k]? = some b → t.mem.byte (pa.toNat + k) = b) ∧ SameOutside s t pa.toNat bytes.length ∧
      t = { s with mem := t.mem, ilrsc := none, tlbRead := [], tlbWrite := [], tlbCode := [] }) ∧
    ((∀ e, findPma s.cfg.pma pa.toNat bytes.length = some e → e.kind ≠ .memory) → t = s) := by
  refine ⟨fun e he hk => ?_, hostWriteMemory_of_elsewhere⟩
  have ht : s.applyHost (.writeMemory pa bytes) =
      { s.flushTlbs with mem := s.mem.storeBytes pa.toNat bytes, ilrsc := none } := hostWriteMemory_of_memory he hk
  rw [ht]
  exact ⟨fun k b hb => byte_storeBytes_inside hm hb, fun q hq => byte_storeBytes_outside hm hq, rfl⟩

/-- Settles O51: the queue, then each action by its rule. -/
theorem hostActions : Obligations.HostActions := by
  intro s
  refine ⟨⟨step_of_nil, fun now later h => by rw [step, State.hostTurn, h]⟩, ⟨rfl, rfl, rfl, fun _ => rfl⟩,
    fun meip seip => ⟨_, rfl, getLsbD_setExternalInterrupt s meip seip⟩,
    ⟨fun b rest hi hc hp hin => deliverConsoleByte_of_allowed hi hc hp hin, deliverConsoleByte_of_refused⟩,
    ⟨applyHost_writeX s, fun r v => ⟨applyHost_writeF s r v, rfl⟩, fun v => ?_, fun _ => rfl, fun _ => ⟨rfl, rfl⟩, rfl,
      fun _ => ⟨rfl, rfl, rfl⟩, fun _ => rfl, rfl, fun r => ⟨fun hsize => ?_, fun h4 h8 => ?_⟩⟩,
    hostActions_csr s, hostActions_memory s⟩
  · rw [State.applyHost, clearBit0_eq_ofNat]
  · rw [State.applyHost, hostWriteReservation_some, if_pos hsize]
  · rw [State.applyHost, hostWriteReservation_some, if_neg (not_or.mpr ⟨h4, h8⟩)]

end Sys2Proof.Machine
end

section
/-! Family 60_exceptions: trap entry and the choice of the interrupt (60_exceptions R802, R821, R822, R840 to R845). -/

namespace Sys2Proof.Machine

open Sys2Proof

/-! ## Words -/

theorem getLsbD_trapCause (isInt : Bool) {code : Nat} (hc : code < 16) (k : Nat) :
    (trapCause isInt code).getLsbD k = if k = 63 then isInt else (BitVec.ofNat 64 code).getLsbD k := by
  cases isInt with
  | true =>
    have hset : trapCause true code = setBit (BitVec.ofNat 64 code) 63 true := rfl
    rw [hset, getLsbD_setBit _ (by decide)]
  | false =>
    have hcode : trapCause false code = BitVec.ofNat 64 code := rfl
    rw [hcode]
    split
    next hk =>
      have hlt : code < 2 ^ 63 := by omega
      rw [hk, BitVec.getLsbD_ofNat, Nat.testBit_lt_two_pow hlt, Bool.and_false]
    · rfl

theorem clearBit0_of_even {w : Word} (h : w.getLsbD 0 = false) : w &&& ~~~1#64 = w := by
  apply BitVec.eq_of_getLsbD_eq
  intro k hk
  rw [BitVec.getLsbD_and, BitVec.getLsbD_not, BitVec.getLsbD_one]
  cases k with
  | zero => rw [h, Bool.false_and]
  | succ k => simp [hk]

/-- The base of a vector is a multiple of 4 (60_exceptions R844). -/
theorem clearLow2_eq_ofNat (w : Word) : w &&& ~~~3#64 = BitVec.ofNat 64 (w.toNat / 4 * 4) := by
  have hshift : w &&& ~~~3#64 = w >>> 2 <<< 2 := by
    apply BitVec.eq_of_getLsbD_eq
    intro k hk
    have hthree : (3#64).getLsbD k = decide (k ∈ [0, 1]) := getLsbD_eq_mem (by decide) (by decide) k
    rw [BitVec.getLsbD_and, BitVec.getLsbD_not, hthree, BitVec.getLsbD_shiftLeft, BitVec.getLsbD_ushiftRight]
    rcases Nat.lt_or_ge k 2 with hlow | hhigh
    · interval_cases k <;> simp
    · have hmem : k ∉ [0, 1] := by simp; omega
      rw [decide_eq_false hmem, show 2 + (k - 2) = k by omega]
      simp [hk, Nat.not_lt.mpr hhigh]
  have hquarter : (w >>> 2).toNat = w.toNat / 4 := by rw [BitVec.toNat_ushiftRight, Nat.shiftRight_eq_div_pow]
  rw [hshift, shiftLeft_eq_ofNat, hquarter]
  rfl

theorem trapCause_code {code : Nat} (hc : code < 16) :
    trapCause true code &&& 0x7FFFFFFFFFFFFFFF#64 = BitVec.ofNat 64 code := by
  apply BitVec.eq_of_toNat_eq
  have hlow : (trapCause true code).toNat % 2 ^ 63 = code := by
    have hor : (trapCause true code).toNat = code ||| 2 ^ 63 := by
      rw [trapCause, if_pos rfl, BitVec.toNat_or, BitVec.toNat_ofNat, Nat.mod_eq_of_lt (by omega)]
      rfl
    have hsum : code ||| 2 ^ 63 = 2 ^ 63 * 1 + code := by
      rw [Nat.two_pow_add_eq_or_of_lt (by omega), Nat.or_comm, mul_one]
    rw [hor, hsum]
    omega
  rw [BitVec.toNat_and, show (0x7FFFFFFFFFFFFFFF#64).toNat = 2 ^ 63 - 1 from rfl, Nat.and_two_pow_sub_one_eq_mod, hlow,
    BitVec.toNat_ofNat, Nat.mod_eq_of_lt (by omega)]

theorem trapVector_exception (tvec : Word) {code : Nat} (hc : code < 16) :
    trapVector tvec (trapCause false code) = BitVec.ofNat 64 (tvec.toNat / 4 * 4) := by
  have hbit : (trapCause false code).getLsbD 63 = false := getLsbD_trapCause false hc 63
  rw [trapVector, hbit, Bool.and_false, if_neg Bool.false_ne_true, clearLow2_eq_ofNat]

theorem trapVector_interrupt (tvec : Word) {code : Nat} (hc : code < 16) :
    trapVector tvec (trapCause true code) =
      BitVec.ofNat 64 (tvec.toNat / 4 * 4 + if tvec.getLsbD 0 then 4 * code else 0) := by
  have hbit : (trapCause true code).getLsbD 63 = true := getLsbD_trapCause true hc 63
  rw [trapVector, hbit, Bool.and_true, clearLow2_eq_ofNat, trapCause_code hc]
  split
  · rw [BitVec.ofNat_add _ (4 * code), BitVec.ofNat_mul 4 code]
  · rw [Nat.add_zero]

/-! ## Trap entry (60_exceptions R842, R843) -/

theorem delegated_iff (s : State) (isInt : Bool) (code : Nat) :
    s.delegated isInt code = true ↔
      s.priv ≠ .machine ∧ (if isInt then s.mideleg else s.medeleg).getLsbD code = true := by
  cases isInt <;> simp [State.delegated]

theorem takeTrap_of_delegated {s : State} {isInt : Bool} {code : Nat} (h : s.delegated isInt code = true) (epc tval : Word) :
    s.takeTrap isInt code epc tval = { s.trapToS (trapCause isInt code) epc tval with ilrsc := none } := by
  rw [State.takeTrap, if_pos h]

theorem takeTrap_of_not_delegated {s : State} {isInt : Bool} {code : Nat} (h : ¬s.delegated isInt code = true)
    (epc tval : Word) :
    s.takeTrap isInt code epc tval = { s.trapToM (trapCause isInt code) epc tval with ilrsc := none } := by
  rw [State.takeTrap, if_neg h]

/-- No TLB holds an entry. -/
def State.TlbsEmpty (s : State) : Prop := s.tlbRead = [] ∧ s.tlbWrite = [] ∧ s.tlbCode = []

theorem withPriv_tlbsEmpty {s : State} (h : s.TlbsEmpty) (p : Priv) : (s.withPriv p).TlbsEmpty := by
  by_cases hp : p = s.priv
  · rw [State.withPriv, if_pos hp]
    exact h
  · exact withPriv_flushes hp

theorem getLsbD_trapToM_mstatus (s : State) (cause epc tval : Word) (k : Nat) :
    (s.trapToM cause epc tval).mstatus.getLsbD k =
      if k = 7 then s.mstatus.getLsbD 3 else if k = 3 then false else if k = 11 then decide (s.priv ≠ .user)
      else if k = 12 then decide (s.priv = .machine) else s.mstatus.getLsbD k := by
  have hlow : s.priv.bits.getLsbD 0 = decide (s.priv ≠ .user) := by cases s.priv <;> rfl
  have hhigh : s.priv.bits.getLsbD 1 = decide (s.priv = .machine) := by cases s.priv <;> rfl
  rw [trapToM_mstatus, getLsbD_setField2 _ (by decide), getLsbD_setBit _ (by decide), getLsbD_setBit _ (by decide), hlow, hhigh,
    State.mieBit]
  grind

theorem getLsbD_trapToS_mstatus (s : State) (cause epc tval : Word) (k : Nat) :
    (s.trapToS cause epc tval).mstatus.getLsbD k =
      if k = 5 then s.mstatus.getLsbD 1 else if k = 1 then false
      else if k = 8 then decide (s.priv = .supervisor) else s.mstatus.getLsbD k := by
  have hspp : (s.priv == .supervisor) = decide (s.priv = .supervisor) := by cases s.priv <;> rfl
  rw [trapToS_mstatus, getLsbD_setBit _ (by decide), getLsbD_setBit _ (by decide), getLsbD_setBit _ (by decide), hspp,
    State.sieBit]
  grind

/-- The mode or `MPP` changes (20_memory R262). -/
theorem trapToM_flushes {s : State} (h : s.priv ≠ .machine ∨ s.priv.bits ≠ slice s.mstatus 11 2) (cause epc tval : Word) :
    (s.trapToM cause epc tval).TlbsEmpty := by
  rcases h with hp | hm
  · have hflush : ∀ m, ((s.withMstatus m).withPriv .machine).TlbsEmpty := fun m =>
      withPriv_flushes (by rw [withMstatus_priv]; exact hp.symm)
    exact hflush _
  · have hempty : (s.withMstatus (setField2 (setBit (setBit s.mstatus 7 s.mieBit) 3 false) 11 s.priv.bits)).TlbsEmpty :=
      withMstatus_flushes (.inr (by rwa [slice_setField2]))
    exact withPriv_tlbsEmpty hempty .machine

theorem trapToS_flushes {s : State} (h : s.priv = .user) (cause epc tval : Word) : (s.trapToS cause epc tval).TlbsEmpty := by
  have hflush : ∀ m, ((s.withMstatus m).withPriv .supervisor).TlbsEmpty := fun m =>
    withPriv_flushes (by rw [withMstatus_priv, h]; decide)
  exact hflush _

theorem trapToM_only (s : State) (cause epc tval : Word) :
    let t := s.trapToM cause epc tval
    t = { s with mcause := cause, mepc := epc &&& ~~~1#64, mtval := tval, mstatus := t.mstatus, priv := .machine, pc := t.pc,
                 tlbRead := t.tlbRead, tlbWrite := t.tlbWrite, tlbCode := t.tlbCode } := by
  unfold State.trapToM
  dsimp only
  rw [withPriv_only, withMstatus_only]

theorem trapToS_only (s : State) (cause epc tval : Word) :
    let t := s.trapToS cause epc tval
    t = { s with scause := cause, sepc := epc &&& ~~~1#64, stval := tval, mstatus := t.mstatus, priv := .supervisor, pc := t.pc,
                 tlbRead := t.tlbRead, tlbWrite := t.tlbWrite, tlbCode := t.tlbCode } := by
  unfold State.trapToS
  dsimp only
  rw [withPriv_only, withMstatus_only]

/-- Settles O45: each entry field by field, then the vectors and the codes. -/
theorem trapEntry : Obligations.TrapEntry := by
  refine ⟨?machine, ?supervisor, fun tvec code hc => ⟨trapVector_exception tvec hc, trapVector_interrupt tvec hc⟩,
    fun s e tval => ⟨e.code, rfl, by cases e <;> decide⟩⟩
  case machine =>
    intro s isInt code epc tval hc hepc hno
    have hnot : ¬s.delegated isInt code = true := fun hd => by
      obtain ⟨hp, hbit⟩ := (delegated_iff s isInt code).1 hd
      exact hno.elim hp fun hzero => Bool.false_ne_true (hzero.symm.trans hbit)
    have honly := trapToM_only s (trapCause isInt code) epc tval
    dsimp only
    rw [takeTrap_of_not_delegated hnot]
    refine ⟨getLsbD_trapCause isInt hc, clearBit0_of_even hepc, rfl, getLsbD_trapToM_mstatus s (trapCause isInt code) epc tval, trapToM_priv s (trapCause isInt code) epc tval,
      rfl, rfl, fun h => trapToM_flushes h (trapCause isInt code) epc tval, ?_⟩
    rw [clearBit0_of_even hepc] at honly
    rw [honly]
  case supervisor =>
    intro s isInt code epc tval hc hepc hp hbit
    have honly := trapToS_only s (trapCause isInt code) epc tval
    dsimp only
    rw [takeTrap_of_delegated ((delegated_iff s isInt code).2 ⟨hp, hbit⟩)]
    refine ⟨getLsbD_trapCause isInt hc, clearBit0_of_even hepc, rfl, getLsbD_trapToS_mstatus s (trapCause isInt code) epc tval, trapToS_priv s (trapCause isInt code) epc tval,
      rfl, rfl, fun h => trapToS_flushes h (trapCause isInt code) epc tval, ?_⟩
    rw [clearBit0_of_even hepc] at honly
    rw [honly]

/-! ## The first of a list -/

/-- `i` stands before `j` in the list. -/
def Before (l : List Nat) (i j : Nat) : Prop := ∃ a m r, l = a ++ i :: m ++ j :: r

theorem Before.mem_right {a b : List Nat} {i j : Nat} (hi : i ∉ a) (hib : i ∉ b) (h : Before (a ++ i :: b) i j) : j ∈ b := by
  obtain ⟨a', m, r, hl⟩ := h
  rw [List.append_assoc, List.cons_append] at hl
  obtain ⟨-, -, hb⟩ := (List.append_cons_inj_of_notMem hi hib).1 hl
  rw [hb]
  exact List.mem_append_right m List.mem_cons_self

/-- In a list without repetitions that holds every element with `p`, the first one is that before all others. -/
theorem find?_eq_some_iff_before {l : List Nat} (hl : l.Nodup) {p : Nat → Bool} (hp : ∀ j, p j = true → j ∈ l) (i : Nat) :
    l.find? p = some i ↔ i ∈ l ∧ p i = true ∧ ∀ j, p j = true → j = i ∨ Before l i j := by
  rw [List.find?_eq_some_iff_append]
  constructor
  · rintro ⟨hi, a, b, rfl, ha⟩
    refine ⟨by simp, hi, fun j hj => ?_⟩
    rcases List.mem_append.mp (hp j hj) with hja | hjb
    · exact absurd (ha j hja) (by simp [hj])
    · rcases List.mem_cons.mp hjb with rfl | hjb
      · exact .inl rfl
      · obtain ⟨m, r, rfl⟩ := List.append_of_mem hjb
        exact .inr ⟨a, m, r, by simp⟩
  · rintro ⟨hmem, hi, hbefore⟩
    obtain ⟨a, b, rfl⟩ := List.append_of_mem hmem
    refine ⟨hi, a, b, rfl, fun j hj => ?_⟩
    obtain ⟨-, hib, hdisj⟩ := List.nodup_append.mp hl
    have hia : i ∉ a := fun h => hdisj i h i List.mem_cons_self rfl
    have hnib : i ∉ b := (List.nodup_cons.mp hib).1
    by_contra hpj
    have hpj : p j = true := by simpa using hpj
    rcases hbefore j hpj with rfl | hij
    · exact hia hj
    · exact hdisj j hj j (List.mem_cons_of_mem i (hij.mem_right hia hnib)) rfl

/-! ## The interrupt taken (60_exceptions R802, R821, R822) -/

/-- Interrupt `j` is pending, enabled and goes to M-mode, which takes it. -/
def State.TakenInM (s : State) (j : Nat) : Prop :=
  s.mip.getLsbD j = true ∧ s.mie.getLsbD j = true ∧ s.mideleg.getLsbD j = false ∧
    (s.priv ≠ .machine ∨ s.mstatus.getLsbD 3 = true)

/-- Interrupt `j` is pending, enabled and goes to S-mode, which takes it. -/
def State.TakenInS (s : State) (j : Nat) : Prop :=
  s.mip.getLsbD j = true ∧ s.mie.getLsbD j = true ∧ s.mideleg.getLsbD j = true ∧
    (s.priv = .user ∨ (s.priv = .supervisor ∧ s.mstatus.getLsbD 1 = true))

theorem mIntEnabled_iff (s : State) : s.mIntEnabled = true ↔ s.priv ≠ .machine ∨ s.mstatus.getLsbD 3 = true := by
  simp [State.mIntEnabled, State.mieBit]

theorem sIntEnabled_iff (s : State) :
    s.sIntEnabled = true ↔ s.priv = .user ∨ (s.priv = .supervisor ∧ s.mstatus.getLsbD 1 = true) := by
  cases hp : s.priv <;> simp [State.sIntEnabled, State.sieBit, hp]

/-- The interrupts for M-mode. -/
def State.takeableM (s : State) : Word := if s.mIntEnabled then s.pend &&& ~~~s.mideleg else 0#64

/-- The interrupts for S-mode. -/
def State.takeableS (s : State) : Word := if s.sIntEnabled then s.pend &&& s.mideleg else 0#64

theorem takeable_eq (s : State) : s.takeable = if s.takeableM = 0#64 then s.takeableS else s.takeableM := rfl

theorem takeableM_iff (s : State) (j : Nat) : s.takeableM.getLsbD j = true ↔ s.TakenInM j := by
  have hlt (h : s.mip.getLsbD j = true) : j < 64 := BitVec.lt_of_getLsbD h
  rw [State.takeableM, State.TakenInM, ← mIntEnabled_iff]
  split
  next he => simp [State.pend, he]; grind
  next he => simp [he]

theorem takeableS_iff (s : State) (j : Nat) : s.takeableS.getLsbD j = true ↔ s.TakenInS j := by
  rw [State.takeableS, State.TakenInS, ← sIntEnabled_iff]
  split
  next he => simp [State.pend, he, and_assoc]
  next he => simp [he]

theorem takeableM_eq_zero_iff (s : State) : s.takeableM = 0#64 ↔ ∀ j, ¬s.TakenInM j := by
  simp only [← takeableM_iff]
  constructor
  · intro h j
    simp [h]
  · intro h
    apply BitVec.eq_of_getLsbD_eq
    intro j _
    rw [BitVec.getLsbD_zero]
    exact Bool.eq_false_iff.mpr (h j)

/-- Those for M-mode come first. -/
theorem takeable_iff (s : State) (j : Nat) :
    s.takeable.getLsbD j = true ↔ s.TakenInM j ∨ ((∀ k, ¬s.TakenInM k) ∧ s.TakenInS j) := by
  rw [takeable_eq]
  split
  next h =>
    have hno := (takeableM_eq_zero_iff s).1 h
    rw [takeableS_iff]
    exact ⟨fun hs => .inr ⟨hno, hs⟩, fun hs => hs.elim (fun hm => absurd hm (hno j)) And.right⟩
  next h =>
    rw [takeableM_iff]
    exact ⟨.inl, fun hs => hs.elim id fun hno => absurd ((takeableM_eq_zero_iff s).2 hno.1) h⟩

theorem mem_interruptOrder_of_takeable {s : State} (h : Within s.mip 0xAAA#64) {j : Nat} (hj : s.takeable.getLsbD j = true) :
    j ∈ interruptOrder := by
  have hmip : s.mip.getLsbD j = true := by
    rcases (takeable_iff s j).1 hj with ⟨hp, -⟩ | ⟨-, hp, -⟩ <;> exact hp
  have hmask : (0xAAA#64).getLsbD j = decide (j ∈ interruptOrder) := getLsbD_eq_mem (by decide) (by decide) j
  by_contra hno
  rw [decide_eq_false hno] at hmask
  exact Bool.false_ne_true ((getLsbD_of_within h hmask).symm.trans hmip)

theorem pendingInterrupt_eq_some_iff {s : State} (h : Within s.mip 0xAAA#64) (i : Nat) :
    s.pendingInterrupt = some i ↔
      i ∈ interruptOrder ∧ ((s.TakenInM i ∧ ∀ j, s.TakenInM j → j = i ∨ Before interruptOrder i j) ∨
        ((∀ j, ¬s.TakenInM j) ∧ s.TakenInS i ∧ ∀ j, s.TakenInS j → j = i ∨ Before interruptOrder i j)) := by
  rw [State.pendingInterrupt,
    find?_eq_some_iff_before (by decide) (fun j hj => mem_interruptOrder_of_takeable h hj)]
  simp only [takeable_iff]
  by_cases hno : ∀ j, ¬s.TakenInM j
  · simp [hno]
  · simp [hno]

theorem pendingInterrupt_eq_none_iff {s : State} (h : Within s.mip 0xAAA#64) :
    s.pendingInterrupt = none ↔ ∀ j, ¬s.TakenInM j ∧ ¬s.TakenInS j := by
  have hnone : s.pendingInterrupt = none ↔ ∀ j, ¬s.takeable.getLsbD j = true := by
    rw [State.pendingInterrupt, List.find?_eq_none]
    exact ⟨fun hall j hj => hall j (mem_interruptOrder_of_takeable h hj) hj, fun hall j _ => hall j⟩
  rw [hnone]
  simp only [takeable_iff]
  by_cases hno : ∀ j, ¬s.TakenInM j
  · simp [hno]
  · simp [hno]
    grind

/-- Settles O47: the first takeable interrupt in the order is the one before all others. -/
theorem interruptPriority : Obligations.InterruptPriority := fun s h =>
  ⟨pendingInterrupt_eq_some_iff h, pendingInterrupt_eq_none_iff h, fun i hi => by rw [State.interruptCheck, hi],
    fun hi => by rw [State.interruptCheck, hi]⟩

end Sys2Proof.Machine
end

section
/-! Family 60_exceptions: an abandoned instruction has no other effect, and what an instruction can do in U-mode (60_exceptions
R804, R805, R850, R851). -/

namespace Sys2Proof.Machine

open Sys2Proof

/-! ## Abandoned instructions (60_exceptions R804) -/

theorem ne_add_one (w : Word) : w + 1#64 ≠ w := by bv_omega

/-- The state that an abandoned instruction leaves is the entry of an exception after a walk at most. -/
theorem AbandonedBy.entry {i : Instr} {s t : State} (h : AbandonedBy i s t) :
    ∃ u e tval, t = State.takeException u e tval ∧ OnlyWalk s u ∧ (accessOf i s = none → u = s) := by
  obtain ⟨u, e, tval, hu, rfl⟩ := h
  refine ⟨u, e, tval, rfl, onlyWalk_of_trap hu, fun hn => hu.resolve_right ?_⟩
  rintro ⟨a, pa, ha, -⟩
  cases hn.symm.trans ha

/-- What an abandoned instruction leaves alone. -/
theorem AbandonedBy.frame {i : Instr} {s t : State} (h : AbandonedBy i s t) :
    SameDevices s t ∧
      t.x = s.x ∧ t.f = s.f ∧ t.fcsr = s.fcsr ∧ t.ilrsc = none ∧ t.mip = s.mip ∧ t.mie = s.mie ∧ t.satp = s.satp ∧
        t.medeleg = s.medeleg ∧ t.mideleg = s.mideleg ∧ t.mtvec = s.mtvec ∧ t.stvec = s.stvec ∧ t.mcounteren = s.mcounteren ∧
        t.scounteren = s.scounteren ∧ t.mscratch = s.mscratch ∧ t.sscratch = s.sscratch ∧ t.mcycle = s.mcycle ∧
        t.idle = s.idle ∧ t.extReq = s.extReq ∧ t.consoleIn = s.consoleIn ∧ t.mcycleEnd = s.mcycleEnd ∧
        t.hostInputs = s.hostInputs ∧ t.cfg = s.cfg ∧ (accessOf i s = none → t.mem = s.mem) := by
  obtain ⟨u, e, tval, rfl, hw, hsame⟩ := h.entry
  have hmem : accessOf i s = none → u.mem = s.mem := fun hn => congrArg State.mem (hsame hn)
  simp only [SameDevices, takeException_mtimecmp, takeException_tohost, takeException_fromhost, takeException_fromhostPending,
    takeException_consoleOut, takeException_halted, takeException_yielded, takeException_x, takeException_f,
    takeException_fcsr, takeException_ilrsc, takeException_mip, takeException_mie, takeException_satp, takeException_medeleg,
    takeException_mideleg, takeException_mtvec, takeException_stvec, takeException_mcounteren, takeException_scounteren,
    takeException_mscratch, takeException_sscratch, takeException_mcycle, takeException_idle, takeException_extReq,
    takeException_consoleIn, takeException_mcycleEnd, takeException_hostInputs, takeException_cfg, takeException_mem]
  generalize u.mem = m at hmem
  rw [hw]
  simpa using hmem

/-- Settles O52: an instruction is abandoned or retires, and the counter says which. -/
theorem retireOrTrap : Obligations.RetireOrTrap := by
  intro i s t h
  rcases (effect_of_exec h).abandoned_or_retired with ⟨hab, hcount⟩ | ⟨hcount, hregs⟩
  · exact ⟨.inl hcount, fun _ => ⟨hab, hab.frame⟩, fun hup => absurd (hup.symm.trans hcount) (ne_add_one _)⟩
  · exact ⟨.inr hcount, fun hsame => absurd (hcount.symm.trans hsame) (ne_add_one _), fun _ => hregs⟩

/-! ## What an instruction of U-mode keeps (60_exceptions R850, R851) -/

/-- The mode, the registers that a user-mode instruction cannot write, and `mstatus` but for FS are the same. -/
structure UserFrame (s t : State) : Prop where
  priv   : t.priv = s.priv
  regs   : t.medeleg = s.medeleg ∧ t.mideleg = s.mideleg ∧ t.mie = s.mie ∧ t.mtvec = s.mtvec ∧ t.mcounteren = s.mcounteren ∧
    t.mscratch = s.mscratch ∧ t.mepc = s.mepc ∧ t.mcause = s.mcause ∧ t.mtval = s.mtval ∧ t.stvec = s.stvec ∧
    t.scounteren = s.scounteren ∧ t.sscratch = s.sscratch ∧ t.sepc = s.sepc ∧ t.scause = s.scause ∧ t.stval = s.stval ∧
    t.satp = s.satp
  status : ∀ k, k ≠ 13 → k ≠ 14 → t.mstatus.getLsbD k = s.mstatus.getLsbD k

theorem UserFrame.refl (s : State) : UserFrame s s := ⟨rfl, by simp, fun _ _ _ => rfl⟩

theorem UserFrame.trans {s t u : State} (h : UserFrame s t) (h' : UserFrame t u) : UserFrame s u := by
  obtain ⟨hpriv, hregs, hstatus⟩ := h
  obtain ⟨hpriv', hregs', hstatus'⟩ := h'
  refine ⟨hpriv'.trans hpriv, ?_, fun k h13 h14 => (hstatus' k h13 h14).trans (hstatus k h13 h14)⟩
  simp only [hregs] at hregs'
  exact hregs'

theorem StoreFrame.userFrame {s t : State} (h : StoreFrame s t) : UserFrame s t := by
  rw [h]
  exact ⟨rfl, by simp, fun _ _ _ => rfl⟩

theorem OnlyWalk.userFrame {s t : State} (h : OnlyWalk s t) : UserFrame s t := h.storeFrame.userFrame

theorem UserFrame.setX (s : State) (r : Reg) (v : Word) : UserFrame s (s.setX r v) := by
  rw [setX_only]
  exact ⟨rfl, by simp, fun _ _ _ => rfl⟩

theorem UserFrame.dirtyFs (s : State) : UserFrame s s.dirtyFs := ⟨rfl, by simp, dirty_elsewhere s.mstatus⟩

theorem UserFrame.setF (s : State) (r : Reg) (v : Word) : UserFrame s (s.setF r v) :=
  ⟨rfl, by simp, dirty_elsewhere s.mstatus⟩

theorem UserFrame.accrue (s : State) (fl : FFlags) : UserFrame s (s.accrue fl) := by
  rw [State.accrue]
  split
  · exact .refl s
  · exact (UserFrame.dirtyFs s).trans ⟨rfl, by simp, fun _ _ _ => rfl⟩

theorem UserFrame.retireTo (s : State) (next : Word) : UserFrame s (s.retireTo next) := ⟨rfl, by simp, fun _ _ _ => rfl⟩

theorem UserFrame.retire (s : State) (len : Word) : UserFrame s (s.retire len) := UserFrame.retireTo s _

/-- The addresses open to U-mode are those of the floating-point registers and of the counters (10_state R46). -/
theorem Csr.unprivileged {a : BitVec 12} {c : Csr} (h : Csr.StandsAt a c) (ha : a.toNat / 256 % 4 = 0) :
    c.isFp = true ∨ c.isCounter = true := by
  have hrows : ∀ p ∈ csrTable, p.1.toNat / 256 % 4 = 0 → p.2.isFp = true ∨ p.2.isCounter = true := by decide
  rcases h with h | ⟨-, -, rfl⟩ | ⟨hlo, hhi, -⟩ | ⟨hlo, hhi, -⟩
  · exact hrows _ h ha
  · exact .inr rfl
  · omega
  · omega

theorem checkCsr_of_user {s : State} {a : BitVec 12} {wr : Bool} {c : Csr} (hp : s.priv = .user)
    (h : s.checkCsr a wr = some c) : c.isFp = true ∨ c.isCounter = true := by
  have hc := State.ofAddr_of_checkCsr h
  have hopen : ¬s.priv.bits < slice a 8 2 := fun hlt => by
    rw [(State.checkCsr_eq_none_iff (wr := wr) hc).2 (.inl hlt)] at h
    cases h
  refine Csr.unprivileged (Csr.standsAt_of_ofAddr hc) ?_
  rw [Priv.bits_lt_slice_iff, hp] at hopen
  simpa [Priv.bits] using hopen

theorem csrWrite_of_isCounter {c : Csr} (h : c.isCounter = true) (s : State) (v : Word) : csrWrite s c v = s := by
  rcases (by simpa [Csr.isCounter] using h : c = .cycle ∨ c = .time ∨ c = .instret ∨ c = .hpmcounter) with
    rfl | rfl | rfl | rfl <;> rfl

theorem UserFrame.csrWrite_of_isFp {c : Csr} (h : c.isFp = true) (s : State) (v : Word) : UserFrame s (csrWrite s c v) := by
  rcases (by simpa [Csr.isFp] using h : c = .fflags ∨ c = .frm ∨ c = .fcsr) with rfl | rfl | rfl <;>
    exact (UserFrame.dirtyFs s).trans ⟨rfl, by simp [csrWrite, State.dirtyFs], fun _ _ _ => rfl⟩

theorem UserFrame.csrWrite {s : State} {a : BitVec 12} {wr : Bool} {c : Csr} (hp : s.priv = .user)
    (h : s.checkCsr a wr = some c) (v : Word) : UserFrame s (csrWrite s c v) := by
  rcases checkCsr_of_user hp h with hfp | hcounter
  · exact UserFrame.csrWrite_of_isFp hfp s v
  · rw [csrWrite_of_isCounter hcounter]
    exact .refl s

/-- A trap is handled in S-mode or in M-mode. -/
theorem takeException_priv_ne_user (s : State) (e : Exc) (tval : Word) : (s.takeException e tval).priv ≠ .user := by
  by_cases hd : s.delegated false e.code = true
  · rw [takeException_of_delegated hd]
    exact fun h => Priv.noConfusion ((trapToS_priv s (BitVec.ofNat 64 e.code) s.pc tval).symm.trans h)
  · rw [takeException_of_not_delegated hd]
    exact fun h => Priv.noConfusion ((trapToM_priv s (BitVec.ofNat 64 e.code) s.pc tval).symm.trans h)

/-- An instruction in U-mode is abandoned, or it keeps the frame. -/
theorem Effect.of_user {i : Instr} {s t : State} (hp : s.priv = .user) (h : Effect i s t) :
    AbandonedBy i s t ∨ UserFrame s t := by
  cases h with
  | trap u e tval hu => exact .inl ⟨u, e, tval, hu, rfl⟩
  | toX rd v next => exact .inr ((UserFrame.setX s rd v).trans (.retireTo _ next))
  | toF rd v fl => exact .inr (((UserFrame.accrue s fl).trans (.setF _ rd v)).trans (.retire _ _))
  | toXFlags rd v fl => exact .inr (((UserFrame.accrue s fl).trans (.setX _ rd v)).trans (.retire _ _))
  | loadX va pa n s1 rd v len ha ht =>
    exact .inr (((translate_onlyWalk ht).userFrame.trans (.setX s1 rd v)).trans (.retire _ len))
  | loadF va pa n s1 rd v len ha ht =>
    exact .inr (((translate_onlyWalk ht).userFrame.trans (.setF s1 rd v)).trans (.retire _ len))
  | store va pa v len n s1 s2 e ha ht he hw =>
    exact .inr ((storeFrame_of_translated ht hw).userFrame.trans (.retire s2 len))
  | reserve va pa n s1 rd v ha hsize ht =>
    exact .inr ((((translate_onlyWalk ht).withReservation _).userFrame.trans (.setX _ rd v)).trans (.retire _ _))
  | condStore va pa v n s1 rd ha ht =>
    have hw := ((translate_onlyWalk ht).trans (OnlyWalk.storeMem s1 pa.toNat n v)).withReservation none
    exact .inr ((hw.userFrame.trans (.setX _ rd 0#64)).trans (.retire _ _))
  | condSkip va pa n s1 rd ha ht =>
    exact .inr ((((translate_onlyWalk ht).withReservation none).userFrame.trans (.setX _ rd 1#64)).trans (.retire _ _))
  | amo va pa v old n s1 rd ha ht =>
    have hw := (translate_onlyWalk ht).trans (OnlyWalk.storeMem s1 pa.toNat n v)
    exact .inr ((hw.userFrame.trans (.setX _ rd old)).trans (.retire _ _))
  | csr a c wr v rd hi hn hc =>
    cases wr with
    | true => exact .inr (((UserFrame.csrWrite hp hc v).trans (.setX _ rd _)).trans (.retire _ _))
    | false => exact .inr ((UserFrame.setX s rd _).trans (.retire _ _))
  | mret _ hm => cases hp.symm.trans hm
  | sret _ hu => exact absurd hp hu
  | wfi => exact .inr ⟨rfl, by simp, fun _ _ _ => rfl⟩
  | sfence _ _ _ hu => exact absurd hp hu

/-- Settles O53: only an abandoned instruction leaves U-mode. -/
theorem userModeIsConfined : Obligations.UserModeIsConfined := by
  intro i s t hp h
  rcases (effect_of_exec h).of_user hp with hab | hframe
  · obtain ⟨u, e, tval, rfl, hw, -⟩ := hab.entry
    exact ⟨fun hu => absurd hu (takeException_priv_ne_user u e tval), fun _ => ⟨u, e, tval, rfl, hw.priv.trans hp, hw.x⟩⟩
  · obtain ⟨hpriv, hregs, hstatus⟩ := hframe
    refine ⟨fun _ => ?_, fun hno => absurd (hpriv.trans hp) hno⟩
    simpa only [and_assoc] using And.intro hregs hstatus

end Sys2Proof.Machine
end

section
/-! Family 42_rv64i_load_store_fence: loads, stores and atomic memory operations that reach memory (42_rv64i_load_store_fence R470
to R481, 44_a_atomics R528 to R547, 45_f_single R560, R561, 46_d_double R610, R611), and the bit moves between the register
files (45_f_single R571 to R573, R578, R585). -/

namespace Sys2Proof.Machine

open Sys2Proof

/-! ## Bytes as numbers -/

theorem slice_ofNat {n : Nat} (hn : n ≤ 64) (v : Nat) : slice (BitVec.ofNat 64 v) 0 n = BitVec.ofNat n v := by
  apply BitVec.eq_of_getLsbD_eq
  intro k hk
  have hk64 : k < 64 := by omega
  simp only [slice, BitVec.getLsbD_extractLsb', BitVec.getLsbD_ofNat, hk, hk64, decide_true, Bool.true_and, Nat.zero_add]

theorem loadMem_of_bytes {s : State} {a n v : Nat} (hv : v < 256 ^ n) (hb : BytesAre s a n v) :
    s.loadMem a n = BitVec.ofNat 64 v := congrArg (BitVec.ofNat 64) (load_of_bytes hb hv)

/-- A store of `n` bytes takes its value modulo `256 ^ n`. -/
theorem BytesAre.congr {s : State} {a n v w : Nat} (h : BytesAre s a n v) (hvw : v % 256 ^ n = w % 256 ^ n) :
    BytesAre s a n w := by
  have hbyte : ∀ u k, k < n → u / 256 ^ k % 256 = u % 256 ^ n / 256 ^ k % 256 := fun u k hk => by
    have hsplit : 256 ^ n = 256 ^ k * 256 ^ (n - k) := by rw [← Nat.pow_add, Nat.add_sub_cancel' hk.le]
    rw [hsplit, Nat.mod_mul_right_div_self, Nat.mod_mod_of_dvd _ (dvd_pow_self 256 (by omega))]
  intro k hk
  rw [h k hk, hbyte v k hk, hvw, ← hbyte w k hk]

/-! ## Loads (42_rv64i_load_store_fence R470 to R477) -/

section
variable {i : Instr} {s s1 : State} {len va pa out : Word} {n v : Nat} {ext : Word → Word} {rd : Reg} {e : PmaEntry}

theorem loadsX_of_bytes (h : exec i s = loadX len n ext rd va s) (hext : ext (BitVec.ofNat 64 v) = out)
    (hr : Reaches s va n .load pa e s1) (hv : v < 256 ^ n) (hb : BytesAre s1 pa.toNat n v) : LoadsX i s s1 len rd out := by
  rw [← hext, ← loadMem_of_bytes hv hb]
  exact loadsX_of h hr

theorem loadsF_of_bytes (h : exec i s = loadF len n ext rd va s) (hext : ext (BitVec.ofNat 64 v) = out)
    (hr : Reaches s va n .load pa e s1) (hv : v < 256 ^ n) (hb : BytesAre s1 pa.toNat n v) : LoadsF i s s1 len rd out := by
  rw [← hext, ← loadMem_of_bytes hv hb]
  exact loadsF_of h hr

end

/-- Settles O16: a load extends the number its bytes hold, a store writes the low bytes of a register. -/
theorem loadsAndStores : Obligations.LoadsAndStores := by
  refine ⟨fun s s1 rd rs1 imm pa e v => ⟨?lb, ?lh, ?lw, ?lbu, ?lhu, ?lwu, ?ld, add_sext64 (s.getX rs1) imm⟩,
    fun s s1 rs1 rs2 imm pa e hm => ⟨?sb, ?sh, ?sw, ?sd⟩⟩
  case lb => exact loadsX_of_bytes rfl (congrArg sext64 (slice_ofNat (by decide) v))
  case lh => exact loadsX_of_bytes rfl (congrArg sext64 (slice_ofNat (by decide) v))
  case lw => exact loadsX_of_bytes rfl (sextLow32_ofNat v)
  case lbu | lhu | lwu | ld => exact loadsX_of_bytes rfl rfl
  case sb | sh | sw | sd => exact fun hr => stores_of rfl hr hm (by decide)

/-- Settles O27: the unit is on, so each instruction is its load or store. -/
theorem floatLoadsStores : Obligations.FloatLoadsStores := by
  intro s s1 rd rs1 rs2 imm pa e v hfs
  have hbox : boxS (BitVec.ofNat 64 v) = 0xFFFFFFFF#32 ++ BitVec.ofNat 32 v := by rw [boxS, slice_ofNat (by decide)]
  refine ⟨⟨isWord_i rfl rfl, loadsF_of_bytes (requireFp_on hfs _) hbox⟩,
    ⟨isWord_i rfl rfl, loadsF_of_bytes (requireFp_on hfs _) rfl⟩, ⟨isWord_of_encode rfl rfl, fun hr hm => ?fsw⟩,
    ⟨isWord_of_encode rfl rfl, fun hr hm => ?fsd⟩⟩
  case fsw | fsd => exact stores_of (requireFp_on hfs _) hr hm (by decide)

/-! ## Atomic memory operations (44_a_atomics R528 to R547) -/

theorem Swaps.congr {i : Instr} {s s1 : State} {a n : Nat} {rd : Reg} {old : Word} {v w : Nat} (h : Swaps i s s1 a n rd old v)
    (hvw : v % 256 ^ n = w % 256 ^ n) : Swaps i s s1 a n rd old w := by
  obtain ⟨t, hexec, hx, hret, hbytes, hrest⟩ := h
  exact ⟨t, hexec, hx, hret, hbytes.congr hvw, hrest⟩

section
variable {i : Instr} {s s1 : State} {rd rs1 rs2 : Reg} {pa : Word} {e : PmaEntry}

/-- A word operation that acts on low words. -/
theorem swaps_word (f : Word → Word → Word) {a new : BitVec 32} (h : exec i s = amo 4 sextLow32 f rd rs1 rs2 s) (hm : s.mem.wf = true)
    (hf : (f (a.setWidth 64) (s.getX rs2)).setWidth 32 = new) (hr : Reaches s (s.getX rs1) 4 .store pa e s1) (hre : e.r = true)
    (hb : BytesAre s1 pa.toNat 4 a.toNat) : Swaps i s s1 pa.toNat 4 rd (a.signExtend 64) new.toNat := by
  have hload : s1.loadMem pa.toNat 4 = a.setWidth 64 := by
    rw [loadMem_of_bytes a.isLt hb, BitVec.ofNat_toNat]
  have hold : sextLow32 (a.setWidth 64) = a.signExtend 64 := by
    rw [← BitVec.ofNat_toNat, sextLow32_ofNat, BitVec.ofNat_toNat, BitVec.setWidth_eq]
  have hswap := swaps_of h hr hre hm (by decide)
  rw [hload, hold] at hswap
  refine hswap.congr ?_
  have hmod := congrArg BitVec.toNat hf
  rw [BitVec.toNat_setWidth] at hmod
  exact hmod.trans (Nat.mod_eq_of_lt new.isLt).symm

theorem swaps_double (f : Word → Word → Word) {a new : BitVec 64} (h : exec i s = amo 8 id f rd rs1 rs2 s) (hm : s.mem.wf = true)
    (hf : f a (s.getX rs2) = new) (hr : Reaches s (s.getX rs1) 8 .store pa e s1) (hre : e.r = true)
    (hb : BytesAre s1 pa.toNat 8 a.toNat) : Swaps i s s1 pa.toNat 8 rd a new.toNat := by
  have hload : s1.loadMem pa.toNat 8 = a := by
    rw [loadMem_of_bytes a.isLt hb, BitVec.ofNat_toNat, BitVec.setWidth_eq]
  have hswap := swaps_of h hr hre hm (by decide)
  rwa [hload, hf] at hswap

end

theorem ite_slt {w : Nat} {α : Type} (x y : BitVec w) (u v : α) :
    (if x.slt y then u else v) = if y.toInt ≤ x.toInt then v else u := by
  rw [BitVec.slt_eq_decide, ← ite_not]
  simp only [decide_eq_true_eq, not_lt]

theorem ite_ult {w : Nat} {α : Type} (x y : BitVec w) (u v : α) :
    (if x.ult y then u else v) = if y.toNat ≤ x.toNat then v else u := by
  rw [BitVec.ult_eq_decide, ← ite_not]
  simp only [decide_eq_true_eq, not_lt]

/-- The low word of a word operation's operand from memory. -/
theorem setWidth_extended (a : BitVec 32) : (a.setWidth 64 : Word).setWidth 32 = a := by
  rw [BitVec.setWidth_setWidth_of_le a (by decide), BitVec.setWidth_eq]

theorem ite_setWidth (p : Prop) [Decidable p] (x y : Word) :
    (if p then x else y).setWidth 32 = if p then x.setWidth 32 else y.setWidth 32 :=
  apply_ite (fun w : Word => w.setWidth 32) p x y

/-- Settles O26: a word operation is known by its low word, and the model's strict comparisons by their negations. -/
theorem atomicOps : Obligations.AtomicOps := by
  refine ⟨fun s s1 rd rs1 rs2 aq rl pa e a hm => ?words, fun s s1 rd rs1 rs2 aq rl pa e a hm => ?doubles⟩
  case words =>
    have ha := setWidth_extended a
    refine ⟨⟨isWord_amo rfl rfl, swaps_word (fun _ y => y) rfl hm rfl⟩,
      ⟨isWord_amo rfl rfl, swaps_word (fun x y => x + y) rfl hm ?add⟩,
      ⟨isWord_amo rfl rfl, swaps_word (fun x y => x ^^^ y) rfl hm ?xor⟩,
      ⟨isWord_amo rfl rfl, swaps_word (fun x y => x &&& y) rfl hm ?and⟩,
      ⟨isWord_amo rfl rfl, swaps_word (fun x y => x ||| y) rfl hm ?or⟩,
      ⟨isWord_amo rfl rfl, swaps_word (fun x y => if sltW y x then y else x) rfl hm ?min⟩,
      ⟨isWord_amo rfl rfl, swaps_word (fun x y => if sltW x y then y else x) rfl hm ?max⟩,
      ⟨isWord_amo rfl rfl, swaps_word (fun x y => if ultW y x then y else x) rfl hm ?minu⟩,
      ⟨isWord_amo rfl rfl, swaps_word (fun x y => if ultW x y then y else x) rfl hm ?maxu⟩⟩
    case add => rw [BitVec.setWidth_add _ _ (by decide), ha]
    case xor => rw [BitVec.setWidth_xor, ha]
    case and => rw [BitVec.setWidth_and, ha]
    case or => rw [BitVec.setWidth_or, ha]
    case min | max => rw [ite_setWidth, sltW, low32_eq_setWidth, low32_eq_setWidth, ha, ite_slt]
    case minu | maxu => rw [ite_setWidth, ultW, low32_eq_setWidth, low32_eq_setWidth, ha, ite_ult]
  case doubles =>
    have hb : (s.getX rs2).setWidth 64 = s.getX rs2 := BitVec.setWidth_eq _
    dsimp only
    rw [hb]
    exact ⟨⟨isWord_amo rfl rfl, swaps_double (fun _ y => y) rfl hm rfl⟩,
      ⟨isWord_amo rfl rfl, swaps_double (fun x y => x + y) rfl hm rfl⟩,
      ⟨isWord_amo rfl rfl, swaps_double (fun x y => x ^^^ y) rfl hm rfl⟩,
      ⟨isWord_amo rfl rfl, swaps_double (fun x y => x &&& y) rfl hm rfl⟩,
      ⟨isWord_amo rfl rfl, swaps_double (fun x y => x ||| y) rfl hm rfl⟩,
      ⟨isWord_amo rfl rfl, swaps_double (fun x y => if y.slt x then y else x) rfl hm (ite_slt (s.getX rs2) a _ _)⟩,
      ⟨isWord_amo rfl rfl, swaps_double (fun x y => if x.slt y then y else x) rfl hm (ite_slt a (s.getX rs2) _ _)⟩,
      ⟨isWord_amo rfl rfl, swaps_double (fun x y => if y.ult x then y else x) rfl hm (ite_ult (s.getX rs2) a _ _)⟩,
      ⟨isWord_amo rfl rfl, swaps_double (fun x y => if x.ult y then y else x) rfl hm (ite_ult a (s.getX rs2) _ _)⟩⟩

/-! ## Sign injection and moves (45_f_single R571 to R573, R578, R585; 46_d_double R621 to R623, R638, R641) -/

theorem unboxS_eq (w : Word) :
    unboxS w = if slice w 32 32 = 0xFFFFFFFF#32 then (slice w 0 32).setWidth 64 else 0x7FC00000#64 := rfl

theorem getLsbD_withSign_single (a : Word) (neg : Bool) (k : Nat) :
    ((withSign .single a neg).setWidth 32).getLsbD k = if k = 31 then neg else (a.setWidth 32).getLsbD k := by
  have hbit : (withSign .single a neg).getLsbD k = if k = 31 then neg else a.getLsbD k := getLsbD_setBit a (by decide) neg k
  rw [BitVec.getLsbD_setWidth, BitVec.getLsbD_setWidth, hbit]
  split
  next hk => simp [hk]
  · rfl

theorem getLsbD_withSign_double (a : Word) (neg : Bool) (k : Nat) :
    (withSign .double a neg).getLsbD k = if k = 63 then neg else a.getLsbD k := getLsbD_setBit a (by decide) neg k

section
variable {i : Instr} {s : State} {rd : Reg} {a : Word} {neg : Bool} (hfs : s.fs ≠ 0#2)
include hfs

theorem injects_single (h : exec i s = requireFp i s (writeFpS rd (withSign .single a neg, .none) s)) :
    ∃ v : BitVec 32, (∀ k, v.getLsbD k = if k = 31 then neg else (a.setWidth 32).getLsbD k) ∧
      WritesF i s 4#64 rd (0xFFFFFFFF#32 ++ v) 0#5 :=
  ⟨_, getLsbD_withSign_single a neg, writesF_of_fpS (r := (withSign .single a neg, .none)) hfs h⟩

theorem injects_double (h : exec i s = requireFp i s (writeFp rd (withSign .double a neg, .none) s)) :
    ∃ v : BitVec 64, (∀ k, v.getLsbD k = if k = 63 then neg else a.getLsbD k) ∧ WritesF i s 4#64 rd v 0#5 :=
  ⟨_, getLsbD_withSign_double a neg, writesF_of_fpD (r := (withSign .double a neg, .none)) hfs h⟩

end

/-- Settles O29: each sign injection replaces the sign of its first operand, each move writes the other file's bits. -/
theorem signInjectionAndMoves : Obligations.SignInjectionAndMoves := by
  refine ⟨unboxS_eq, fun s rd rs1 rs2 hfs => ?_⟩
  have hxorS : ((s.getS rs1).getLsbD 31 != (s.getS rs2).getLsbD 31) = ((s.getS rs1).getLsbD 31 ^^ (s.getS rs2).getLsbD 31) :=
    congrFun₂ Bool.bne_eq_xor _ _
  have hxorD : ((s.getF rs1).getLsbD 63 != (s.getF rs2).getLsbD 63) = ((s.getF rs1).getLsbD 63 ^^ (s.getF rs2).getLsbD 63) :=
    congrFun₂ Bool.bne_eq_xor _ _
  have hlow : sextLow32 (s.getF rs1) = ((s.getF rs1).setWidth 32).signExtend 64 :=
    congrArg (fun w : BitVec 32 => w.signExtend 64) (low32_eq_setWidth (s.getF rs1))
  dsimp only
  rw [← hxorS, ← hxorD, ← hlow]
  exact ⟨⟨isWord_r rfl rfl, injects_single hfs rfl⟩, ⟨isWord_r rfl rfl, injects_single hfs rfl⟩,
    ⟨isWord_r rfl rfl, injects_single hfs rfl⟩, ⟨isWord_r rfl rfl, injects_double hfs rfl⟩,
    ⟨isWord_r rfl rfl, injects_double hfs rfl⟩, ⟨isWord_r rfl rfl, injects_double hfs rfl⟩,
    ⟨isWord_r rfl rfl, writesX_of_fp hfs rfl⟩, ⟨isWord_r rfl rfl, writesF_of_fpS (r := (s.getX rs1, .none)) hfs rfl⟩,
    ⟨isWord_r rfl rfl, writesX_of_fp hfs rfl⟩, ⟨isWord_r rfl rfl, writesF_of_fpD (r := (s.getX rs1, .none)) hfs rfl⟩⟩

end Sys2Proof.Machine
end

section
/-! Family 49_c_compressed: the encoding and the effect of every compressed instruction, and the reserved halfwords
(49_c_compressed R700 to R740). -/

namespace Sys2Proof.Machine

open Sys2Proof

/-! ## Halfwords by format, as their fields -/

/-- A halfword decodes by its fields. -/
theorem decode_half {w : BitVec 16} {f : Fields16} (h : w = f.toWord) : decode (.half w) = Decode.word16 f := by
  rw [h, decode_toHalf]

theorem constrained_eq_none {i : Instr} (h : i.wellFormed = false) : Decode.constrained i = none := by
  rw [Decode.constrained, h, if_neg Bool.false_ne_true]

theorem isHalf_of_fields {w : BitVec 16} {f : Fields16} {i : Instr} (h : w = f.toWord) (hi : i.WF)
    (he : encode i = .half f.toWord) : IsHalf w i := by
  rw [h]
  exact isHalf_of_encode hi he

/-- CI format. -/
theorem ci_fields (f3 : BitVec 3) (imm : BitVec 6) (rd : Reg) (op : BitVec 2) :
    (f3 ++ slice imm 5 1 ++ rd ++ slice imm 0 5 ++ op : BitVec 16) =
      Fields16.toWord ⟨f3, slice imm 5 1, slice rd 3 2, slice rd 0 3, slice imm 3 2, slice imm 0 3, op⟩ := by
  apply BitVec.eq_of_getLsbD_eq
  intro k hk
  simp only [Fields16.toWord, slice, BitVec.getLsbD_append, BitVec.getLsbD_extractLsb']
  interval_cases k <;> simp

/-- CI format with the immediate given in its two parts. -/
theorem ci_parts_fields (f3 : BitVec 3) (i : BitVec 1) (v : BitVec 5) (rd : Reg) (op : BitVec 2) :
    (f3 ++ i ++ rd ++ v ++ op : BitVec 16) =
      Fields16.toWord ⟨f3, i, slice rd 3 2, slice rd 0 3, slice v 3 2, slice v 0 3, op⟩ := by
  apply BitVec.eq_of_getLsbD_eq
  intro k hk
  simp only [Fields16.toWord, slice, BitVec.getLsbD_append, BitVec.getLsbD_extractLsb']
  interval_cases k <;> simp

/-- CR format. -/
theorem cr_fields (b12 : BitVec 1) (rd rs2 : Reg) :
    (4#3 ++ b12 ++ rd ++ rs2 ++ 2#2 : BitVec 16) =
      Fields16.toWord ⟨4#3, b12, slice rd 3 2, slice rd 0 3, slice rs2 3 2, slice rs2 0 3, 2#2⟩ :=
  ci_parts_fields 4#3 b12 rs2 rd 2#2

/-- CB format of a shift and of `C.ANDI`. -/
theorem cbAlu_fields (b11 : BitVec 2) (q : CReg) (imm : BitVec 6) :
    (4#3 ++ slice imm 5 1 ++ b11 ++ q ++ slice imm 0 5 ++ 1#2 : BitVec 16) =
      Fields16.toWord ⟨4#3, slice imm 5 1, b11, q, slice imm 3 2, slice imm 0 3, 1#2⟩ := by
  apply BitVec.eq_of_getLsbD_eq
  intro k hk
  simp only [Fields16.toWord, slice, BitVec.getLsbD_append, BitVec.getLsbD_extractLsb']
  interval_cases k <;> simp

/-- CIW format. -/
theorem spn_fields (z : BitVec 8) (q : CReg) :
    (0#3 ++ slice z 2 2 ++ slice z 4 4 ++ slice z 0 1 ++ slice z 1 1 ++ q ++ 0#2 : BitVec 16) =
      Fields16.toWord ⟨0#3, slice z 3 1, slice z 2 1 ++ slice z 7 1, slice z 4 3, slice z 0 1 ++ slice z 1 1, q, 0#2⟩ := by
  apply BitVec.eq_of_getLsbD_eq
  intro k hk
  simp only [Fields16.toWord, slice, BitVec.getLsbD_append, BitVec.getLsbD_extractLsb']
  interval_cases k <;> simp

/-- The word of `C.ADDI16SP`. -/
theorem sp16_fields (imm : BitVec 6) :
    (3#3 ++ slice imm 5 1 ++ 2#5 ++ slice imm 0 1 ++ slice imm 2 1 ++ slice imm 3 2 ++ slice imm 1 1 ++ 1#2 : BitVec 16) =
      Fields16.toWord
        ⟨3#3, slice imm 5 1, 0#2, 2#3, slice imm 0 1 ++ slice imm 2 1, slice imm 3 2 ++ slice imm 1 1, 1#2⟩ := by
  apply BitVec.eq_of_getLsbD_eq
  intro k hk
  simp only [Fields16.toWord, slice, BitVec.getLsbD_append, BitVec.getLsbD_extractLsb']
  interval_cases k <;> simp

/-- CJ format. -/
theorem cj_fields (off : BitVec 11) :
    (5#3 ++ slice off 10 1 ++ slice off 3 1 ++ slice off 7 2 ++ slice off 9 1 ++ slice off 5 1 ++ slice off 6 1 ++
        slice off 0 3 ++ slice off 4 1 ++ 1#2 : BitVec 16) =
      Fields16.toWord ⟨5#3, slice off 10 1, slice off 3 1 ++ slice off 8 1,
        slice off 7 1 ++ slice off 9 1 ++ slice off 5 1, slice off 6 1 ++ slice off 2 1,
        slice off 0 2 ++ slice off 4 1, 1#2⟩ := by
  apply BitVec.eq_of_getLsbD_eq
  intro k hk
  simp only [Fields16.toWord, slice, BitVec.getLsbD_append, BitVec.getLsbD_extractLsb']
  interval_cases k <;> simp

/-- CB format of a branch. -/
theorem cb_fields (f3 : BitVec 3) (q : CReg) (imm : BitVec 8) :
    (f3 ++ slice imm 7 1 ++ slice imm 2 2 ++ q ++ slice imm 5 2 ++ slice imm 0 2 ++ slice imm 4 1 ++ 1#2 : BitVec 16) =
      Fields16.toWord ⟨f3, slice imm 7 1, slice imm 2 2, q, slice imm 5 2, slice imm 0 2 ++ slice imm 4 1, 1#2⟩ := by
  apply BitVec.eq_of_getLsbD_eq
  intro k hk
  simp only [Fields16.toWord, slice, BitVec.getLsbD_append, BitVec.getLsbD_extractLsb']
  interval_cases k <;> simp

/-- CL and CS formats with a word offset. -/
theorem clW_fields (f3 : BitVec 3) (u : BitVec 5) (q p : CReg) :
    (f3 ++ slice u 1 3 ++ q ++ slice u 0 1 ++ slice u 4 1 ++ p ++ 0#2 : BitVec 16) =
      Fields16.toWord ⟨f3, slice u 3 1, slice u 1 2, q, slice u 0 1 ++ slice u 4 1, p, 0#2⟩ := by
  apply BitVec.eq_of_getLsbD_eq
  intro k hk
  simp only [Fields16.toWord, slice, BitVec.getLsbD_append, BitVec.getLsbD_extractLsb']
  interval_cases k <;> simp

/-- CL and CS formats with a doubleword offset. -/
theorem clD_fields (f3 : BitVec 3) (u : BitVec 5) (q p : CReg) :
    (f3 ++ slice u 0 3 ++ q ++ slice u 3 2 ++ p ++ 0#2 : BitVec 16) =
      Fields16.toWord ⟨f3, slice u 2 1, slice u 0 2, q, slice u 3 2, p, 0#2⟩ := by
  apply BitVec.eq_of_getLsbD_eq
  intro k hk
  simp only [Fields16.toWord, slice, BitVec.getLsbD_append, BitVec.getLsbD_extractLsb']
  interval_cases k <;> simp

/-- The words of a load from the stack. -/
theorem lwsp_fields (w : BitVec 6) (rd : Reg) :
    (2#3 ++ slice w 3 1 ++ rd ++ slice w 0 3 ++ slice w 4 2 ++ 2#2 : BitVec 16) =
      Fields16.toWord ⟨2#3, slice w 3 1, slice rd 3 2, slice rd 0 3, slice w 1 2, slice w 0 1 ++ slice w 4 2, 2#2⟩ := by
  apply BitVec.eq_of_getLsbD_eq
  intro k hk
  simp only [Fields16.toWord, slice, BitVec.getLsbD_append, BitVec.getLsbD_extractLsb']
  interval_cases k <;> simp

theorem ldsp_fields (f3 : BitVec 3) (w : BitVec 6) (rd : Reg) :
    (f3 ++ slice w 2 1 ++ rd ++ slice w 0 2 ++ slice w 3 3 ++ 2#2 : BitVec 16) =
      Fields16.toWord ⟨f3, slice w 2 1, slice rd 3 2, slice rd 0 3, slice w 0 2, slice w 3 3, 2#2⟩ := by
  apply BitVec.eq_of_getLsbD_eq
  intro k hk
  simp only [Fields16.toWord, slice, BitVec.getLsbD_append, BitVec.getLsbD_extractLsb']
  interval_cases k <;> simp

/-- The words of a store to the stack. -/
theorem swsp_fields (w : BitVec 6) (rs2 : Reg) :
    (6#3 ++ slice w 0 4 ++ slice w 4 2 ++ rs2 ++ 2#2 : BitVec 16) =
      Fields16.toWord ⟨6#3, slice w 3 1, slice w 1 2, slice w 0 1 ++ slice w 4 2, slice rs2 3 2, slice rs2 0 3, 2#2⟩ := by
  apply BitVec.eq_of_getLsbD_eq
  intro k hk
  simp only [Fields16.toWord, slice, BitVec.getLsbD_append, BitVec.getLsbD_extractLsb']
  interval_cases k <;> simp

theorem sdsp_fields (f3 : BitVec 3) (w : BitVec 6) (rs2 : Reg) :
    (f3 ++ slice w 0 3 ++ slice w 3 3 ++ rs2 ++ 2#2 : BitVec 16) =
      Fields16.toWord ⟨f3, slice w 2 1, slice w 0 2, slice w 3 3, slice rs2 3 2, slice rs2 0 3, 2#2⟩ := by
  apply BitVec.eq_of_getLsbD_eq
  intro k hk
  simp only [Fields16.toWord, slice, BitVec.getLsbD_append, BitVec.getLsbD_extractLsb']
  interval_cases k <;> simp

/-- A halfword of quadrant 0 by its first field. -/
theorem quadrant0_fields (f3 : BitVec 3) (v : BitVec 11) :
    (f3 ++ v ++ 0#2 : BitVec 16) =
      Fields16.toWord ⟨f3, slice v 10 1, slice v 8 2, slice v 5 3, slice v 3 2, slice v 0 3, 0#2⟩ := by
  apply BitVec.eq_of_getLsbD_eq
  intro k hk
  simp only [Fields16.toWord, slice, BitVec.getLsbD_append, BitVec.getLsbD_extractLsb']
  interval_cases k <;> simp

theorem caReserved_fields (q p : CReg) (b : BitVec 1) :
    (4#3 ++ 1#1 ++ 3#2 ++ q ++ 1#1 ++ b ++ p ++ 1#2 : BitVec 16) =
      Fields16.toWord ⟨4#3, 1#1, 3#2, q, 1#1 ++ b, p, 1#2⟩ := by
  apply BitVec.eq_of_getLsbD_eq
  intro k hk
  simp only [Fields16.toWord, BitVec.getLsbD_append]
  interval_cases k <;> simp

/-! ## The reserved halfwords (49_c_compressed R740) -/

theorem decode_spn (z : BitVec 8) (q : CReg) :
    decode (.half (0#3 ++ slice z 2 2 ++ slice z 4 4 ++ slice z 0 1 ++ slice z 1 1 ++ q ++ 0#2)) =
      Decode.constrained (.cAddi4spn q z) := by
  rw [decode_half (spn_fields z q)]
  simp [Decode.word16, Decode.quadrant0]

theorem decode_sp16 (imm : BitVec 6) :
    decode (.half (3#3 ++ slice imm 5 1 ++ 2#5 ++ slice imm 0 1 ++ slice imm 2 1 ++ slice imm 3 2 ++ slice imm 1 1 ++ 1#2)) =
      Decode.constrained (.cAddi16sp imm) := by
  rw [decode_half (sp16_fields imm)]
  simp [Decode.word16, Decode.quadrant1, Fields16.rd]

theorem decode_cLui {rd : Reg} (h : rd ≠ 2#5) (imm : BitVec 6) :
    decode (.half (3#3 ++ slice imm 5 1 ++ rd ++ slice imm 0 5 ++ 1#2)) = Decode.constrained (.cLui rd imm) := by
  rw [decode_half (ci_fields 3#3 imm rd 1#2)]
  simp [Decode.word16, Decode.quadrant1, h]

theorem decode_cLui_zero {rd : Reg} (h : rd ≠ 2#5) :
    decode (.half (3#3 ++ slice 0#6 5 1 ++ rd ++ slice 0#6 0 5 ++ 1#2)) = none := by
  rw [decode_cLui h, constrained_eq_none (by simp [Instr.wellFormed])]

/-- `C.ADDIW`, `C.LWSP` and `C.LDSP` are reserved with `rd = x0`, whatever the immediate. -/
theorem decode_rd_zero (i : BitVec 1) (v : BitVec 5) {rd : Reg} (h : rd = 0#5) :
    decode (.half (1#3 ++ i ++ rd ++ v ++ 1#2)) = none ∧ decode (.half (2#3 ++ i ++ rd ++ v ++ 2#2)) = none ∧
      decode (.half (3#3 ++ i ++ rd ++ v ++ 2#2)) = none := by
  rw [decode_half (ci_parts_fields 1#3 i v rd 1#2), decode_half (ci_parts_fields 2#3 i v rd 2#2),
    decode_half (ci_parts_fields 3#3 i v rd 2#2)]
  have hno : (rd != 0#5) = false := by simp [h]
  simp only [Decode.word16, Decode.quadrant1, Decode.quadrant2, Fields16.rd_pack]
  exact ⟨constrained_eq_none hno, constrained_eq_none hno, constrained_eq_none hno⟩

/-- `C.ADDI4SPN` without an immediate: the all-zero halfword is one of these. -/
theorem spnZero_word (q : CReg) :
    (0#11 ++ q ++ 0#2 : BitVec 16) =
      0#3 ++ slice 0#8 2 2 ++ slice 0#8 4 4 ++ slice 0#8 0 1 ++ slice 0#8 1 1 ++ q ++ 0#2 := by
  apply BitVec.eq_of_getLsbD_eq
  intro k hk
  simp only [slice, BitVec.getLsbD_append, BitVec.getLsbD_extractLsb']
  interval_cases k <;> simp

/-- The place of a third group of two-operand forms. -/
theorem quadrant1Alu_reserved (q p : CReg) (b : BitVec 1) :
    Decode.quadrant1Alu ⟨4#3, 1#1, 3#2, q, 1#1 ++ b, p, 1#2⟩ = none := by
  obtain rfl | rfl : b = 0#1 ∨ b = 1#1 := by revert b; decide
  · rfl
  · rfl

/-- Settles O9: each row is one set of fields; a halfword that is no instruction traps with itself. -/
theorem reservedHalfwordsIllegal : Obligations.ReservedHalfwordsIllegal := by
  refine ⟨fun r4 => ?spn, fun v => decode_half (quadrant0_fields 4#3 v), fun i v => (decode_rd_zero i v rfl).1, by decide,
    fun _ => decode_cLui_zero, fun rd b r4 => (decode_half (caReserved_fields rd r4 b)).trans (quadrant1Alu_reserved rd r4 b),
    fun i v => (decode_rd_zero i v rfl).2.1, fun i v => (decode_rd_zero i v rfl).2.2, by decide,
    fun _ s h => execFetched_of_reserved h s⟩
  rw [spnZero_word, decode_spn, constrained_eq_none rfl]

/-! ## Scaled immediates -/

/-- An unsigned field with `m` zero bits below it. -/
theorem toNat_zext64_append_zero {n m : Nat} (v : BitVec n) (h : n + m ≤ 64) :
    (zext64 (v ++ 0#m)).toNat = 2 ^ m * v.toNat := by
  have hlt : (v ++ 0#m).toNat < 2 ^ 64 := (v ++ 0#m).isLt.trans_le (Nat.pow_le_pow_right (by decide) h)
  have hval : (v ++ 0#m).toNat = 2 ^ m * v.toNat := by
    rw [BitVec.toNat_append, BitVec.toNat_ofNat, Nat.zero_mod, Nat.or_zero, Nat.shiftLeft_eq, Nat.mul_comm]
  rw [zext64, BitVec.zeroExtend_eq_setWidth, BitVec.toNat_setWidth, Nat.mod_eq_of_lt hlt, hval]

theorem toNat_offW {n : Nat} (u : BitVec n) (h : n ≤ 6) : (offW u).toNat = 4 * u.toNat :=
  toNat_zext64_append_zero u (by omega)

theorem toNat_offD {n : Nat} (u : BitVec n) (h : n ≤ 6) : (offD u).toNat = 8 * u.toNat :=
  toNat_zext64_append_zero u (by omega)

theorem add_immSpn (x : Word) (z : BitVec 8) : x + immSpn z = BitVec.ofNat 64 (x.toNat + 4 * z.toNat) := by
  have hz : (immSpn z).toNat = 4 * z.toNat := toNat_zext64_append_zero z (by decide)
  apply BitVec.eq_of_toNat_eq
  rw [BitVec.toNat_add, hz, BitVec.toNat_ofNat]

theorem add_imm16sp (x : Word) (imm : BitVec 6) : x + imm16sp imm = BitVec.ofInt 64 (x.toInt + 16 * imm.toInt) := by
  rw [imm16sp, add_sext64, BitVec.toInt_append_zero]
  rfl

/-! ## Immediate forms (49_c_compressed R701, R708 to R716, R726) -/

/-- Settles O57: the word by format, the value by the operation's lemma. -/
theorem compressedImmediates : Obligations.CompressedImmediates := by
  intro s q rd z imm
  refine ⟨fun hz => ⟨isHalf_of_fields (spn_fields z q) (bne_iff_ne.2 hz) rfl, ?spn⟩, fun hz => ?spnZero,
    ⟨isHalf_of_fields (ci_fields 0#3 imm 0#5 1#2) rfl rfl, goesTo_of rfl⟩,
    fun hrd => ⟨isHalf_of_fields (ci_fields 0#3 imm rd 1#2) (bne_iff_ne.2 hrd) rfl, ?addi⟩,
    fun hrd => ⟨isHalf_of_fields (ci_fields 1#3 imm rd 1#2) (bne_iff_ne.2 hrd) rfl, ?addiw⟩,
    fun hrd => (decode_rd_zero _ _ hrd).1, ⟨isHalf_of_fields (ci_fields 2#3 imm rd 1#2) rfl rfl, ?li⟩,
    fun himm => ⟨isHalf_of_fields (sp16_fields imm) (bne_iff_ne.2 himm) rfl, ?sp16⟩, fun himm => ?sp16Zero,
    fun hrd himm => ⟨isHalf_of_fields (ci_fields 3#3 imm rd 1#2) (by simp [Instr.WF, Instr.wellFormed, hrd, himm]) rfl, ?lui⟩,
    fun hrd himm => ?luiZero, ⟨isHalf_of_fields (cbAlu_fields 0#2 q imm) rfl rfl, ?srli⟩,
    ⟨isHalf_of_fields (cbAlu_fields 1#2 q imm) rfl rfl, ?srai⟩, ⟨isHalf_of_fields (cbAlu_fields 2#2 q imm) rfl rfl, ?andi⟩,
    ⟨isHalf_of_fields (ci_fields 0#3 imm rd 2#2) rfl rfl, ?slli⟩⟩
  case spn => exact writesX_of_eq rfl (add_immSpn (s.getX spReg) z)
  case spnZero =>
    subst hz
    exact (decode_spn 0#8 q).trans (constrained_eq_none rfl)
  case sp16Zero =>
    subst himm
    exact (decode_sp16 0#6).trans (constrained_eq_none rfl)
  case addi => exact writesX_of_eq rfl (add_sext64 (s.getX rd) imm)
  case addiw =>
    have hsum := congrArg sextLow32 (add_sext64 (s.getX rd) imm)
    exact writesX_of_eq rfl (hsum.trans (sextLow32_ofInt _))
  case sp16 => exact writesX_of_eq rfl (add_imm16sp (s.getX spReg) imm)
  case luiZero =>
    subst himm
    exact decode_cLui_zero hrd
  case li | lui | andi => exact writesX_of rfl
  case srli => exact writesX_of_eq rfl (ushiftRight_eq_ofNat (s.getX (cReg q)) _)
  case srai => exact writesX_of_eq rfl (sshiftRight_eq_ofInt (s.getX (cReg q)) _)
  case slli => exact writesX_of_eq rfl (shiftLeft_eq_ofNat (s.getX rd) _)

/-! ## Register forms (49_c_compressed R717 to R722, R731, R734) -/

/-- Settles O58: the CA or CR word, and the value by the operation's lemma. -/
theorem compressedRegisterForms : Obligations.CompressedRegisterForms := by
  intro s q p rd rs2
  refine ⟨⟨isHalf_of_encode rfl rfl, ?sub⟩, ⟨isHalf_of_encode rfl rfl, ?xor⟩, ⟨isHalf_of_encode rfl rfl, ?or⟩,
    ⟨isHalf_of_encode rfl rfl, ?and⟩, ⟨isHalf_of_encode rfl rfl, ?subw⟩, ⟨isHalf_of_encode rfl rfl, ?addw⟩,
    fun h => ⟨isHalf_of_fields (cr_fields 0#1 rd rs2) (bne_iff_ne.2 h) rfl, ?mv⟩,
    fun h => ⟨isHalf_of_fields (cr_fields 1#1 rd rs2) (bne_iff_ne.2 h) rfl, ?add⟩⟩
  case sub => exact writesX_of_eq rfl (sub_eq_ofInt (s.getX (cReg q)) (s.getX (cReg p)))
  case subw =>
    have hdiff := congrArg sextLow32 (sub_eq_ofInt (s.getX (cReg q)) (s.getX (cReg p)))
    exact writesX_of_eq rfl (hdiff.trans (sextLow32_ofInt _))
  case addw =>
    have hsum := congrArg sextLow32 (add_eq_ofInt (s.getX (cReg q)) (s.getX (cReg p)))
    exact writesX_of_eq rfl (hsum.trans (sextLow32_ofInt _))
  case xor | or | and | mv => exact writesX_of rfl
  case add => exact writesX_of_eq rfl (add_eq_ofInt (s.getX rd) (s.getX rs2))

/-! ## Jumps and branches (49_c_compressed R723 to R725, R730, R733) -/

theorem jalrTarget_zero (x : Word) : jalrTarget x 0#64 = BitVec.ofNat 64 (x.toNat / 2 * 2) := by
  rw [jalrTarget_eq_ofNat, BitVec.add_zero]

/-- Settles O59: the jumps are jumps of the uncompressed forms, the branches compare with zero. -/
theorem compressedJumps : Obligations.CompressedJumps := by
  intro s q rs1 off imm
  refine ⟨⟨isHalf_of_fields (cj_fields off) rfl rfl, add_sext64_even s.pc off ▸ goesTo_of rfl⟩,
    ⟨isHalf_of_fields (cb_fields 6#3 q imm) rfl rfl, branch_goesTo rfl beq_iff_eq (add_sext64_even s.pc imm)⟩,
    ⟨isHalf_of_fields (cb_fields 7#3 q imm) rfl rfl, branch_goesTo rfl bne_iff_ne (add_sext64_even s.pc imm)⟩,
    fun h => ⟨isHalf_of_fields (cr_fields 0#1 rs1 0#5) (bne_iff_ne.2 h) rfl, ?jr⟩,
    fun h => ⟨isHalf_of_fields (cr_fields 1#1 rs1 0#5) (bne_iff_ne.2 h) rfl, ?jalr⟩⟩
  case jr => exact jalrTarget_zero (s.getX rs1) ▸ goesTo_of rfl
  case jalr => exact jalrTarget_zero (s.getX rs1) ▸ writesXAt_of_jump rfl

/-! ## Loads and stores (49_c_compressed R702 to R707, R727 to R729, R735 to R737) -/

/-- Settles O60: each is the uncompressed access at its scaled offset. -/
theorem compressedLoadsStores : Obligations.CompressedLoadsStores := by
  refine ⟨fun s s1 q p rd u w pa e v => ?loads, fun s s1 q p rs2 u w pa e hm => ?stores⟩
  case loads =>
    refine ⟨⟨toNat_offW u (by decide), toNat_offD u (by decide), toNat_offW w (by decide), toNat_offD w (by decide)⟩,
      ⟨isHalf_of_fields (clW_fields 2#3 u q p) rfl rfl, ?lw⟩, ⟨isHalf_of_fields (clD_fields 3#3 u q p) rfl rfl, ?ld⟩,
      ⟨isHalf_of_fields (clD_fields 1#3 u q p) rfl rfl, ?fld⟩,
      fun hrd => ⟨isHalf_of_fields (lwsp_fields w rd) (bne_iff_ne.2 hrd) rfl, ?lwsp⟩,
      fun hrd => ⟨isHalf_of_fields (ldsp_fields 3#3 w rd) (bne_iff_ne.2 hrd) rfl, ?ldsp⟩,
      ⟨isHalf_of_fields (ldsp_fields 1#3 w rd) rfl rfl, ?fldsp⟩⟩
    case lw | lwsp => exact fun ⟨hr, hv, hb⟩ => loadsX_of_bytes rfl (sextLow32_ofNat v) hr hv hb
    case ld | ldsp => exact fun ⟨hr, hv, hb⟩ => loadsX_of_bytes rfl rfl hr hv hb
    case fld | fldsp => exact fun hfs ⟨hr, hv, hb⟩ => loadsF_of_bytes (requireFp_on hfs _) rfl hr hv hb
  case stores =>
    refine ⟨⟨isHalf_of_fields (clW_fields 6#3 u q p) rfl rfl, ?sw⟩, ⟨isHalf_of_fields (clD_fields 7#3 u q p) rfl rfl, ?sd⟩,
      ⟨isHalf_of_fields (clD_fields 5#3 u q p) rfl rfl, ?fsd⟩, ⟨isHalf_of_fields (swsp_fields w rs2) rfl rfl, ?swsp⟩,
      ⟨isHalf_of_fields (sdsp_fields 7#3 w rs2) rfl rfl, ?sdsp⟩, ⟨isHalf_of_fields (sdsp_fields 5#3 w rs2) rfl rfl, ?fsdsp⟩⟩
    case sw | sd | swsp | sdsp => exact fun hr => stores_of rfl hr hm (by decide)
    case fsd | fsdsp => exact fun hfs hr => stores_of (requireFp_on hfs _) hr hm (by decide)

end Sys2Proof.Machine
end

section
/-! Family 60_exceptions: the devices as loads and stores see them (60_exceptions R858 to R870). -/

namespace Sys2Proof.Machine

open Sys2Proof

/-! ## Accesses that a device refuses (20_memory R240, R241, 44_a_atomics R524) -/

section
variable {s s1 : State} {va pa : Word} {n : Nat} {e : PmaEntry} (hal : va.toNat % n = 0)
include hal

theorem memRead_of_found (ht : translate s va .load = .ok pa s1) (he : findPma s1.cfg.pma pa.toNat n = some e)
    (hr : e.r = true) {v : Word} (hv : physRead s1 e pa.toNat n = some v) : memRead s va n = .ok v s1 := by
  rw [memRead, if_neg (not_not_intro hal), ht, Result.bind]
  simp only [he, hr, hv, Bool.true_eq_false, if_false]

theorem memRead_of_none (ht : translate s va .load = .ok pa s1) (he : findPma s1.cfg.pma pa.toNat n = some e)
    (hv : physRead s1 e pa.toNat n = none) : memRead s va n = .raised .loadAccessFault va s1 := by
  rw [memRead, if_neg (not_not_intro hal), ht, Result.bind]
  simp only [he, hv, ite_self]

theorem memWrite_of_found (ht : translate s va .store = .ok pa s1) (he : findPma s1.cfg.pma pa.toNat n = some e)
    (hw : e.w = true) {v : Word} {t : State} (ht' : physWrite s1 e pa.toNat n v = some t) : memWrite s va n v = .ok () t := by
  rw [memWrite, if_neg (not_not_intro hal), ht, Result.bind]
  simp only [he, hw, ht', Bool.true_eq_false, if_false]

theorem memWrite_of_none (ht : translate s va .store = .ok pa s1) (he : findPma s1.cfg.pma pa.toNat n = some e) {v : Word}
    (hv : physWrite s1 e pa.toNat n v = none) : memWrite s va n v = .raised .storeAmoAccessFault va s1 := by
  rw [memWrite, if_neg (not_not_intro hal), ht, Result.bind]
  simp only [he, hv, ite_self]

theorem atomicAddr_of_device {acc : Access} (ht : translate s va acc = .ok pa s1)
    (he : findPma s1.cfg.pma pa.toNat n = some e) (hk : e.kind ≠ .memory) :
    atomicAddr s va n acc = .raised acc.accessFault va s1 := by
  rw [atomicAddr, if_neg (not_not_intro hal), ht, Result.bind]
  simp only [he]
  exact if_pos (.inl hk)

end

/-- The device at the address answers no read, or no write, of this width there; atomics need memory. -/
structure DeviceRefuses (s1 : State) (e : PmaEntry) (pa : Nat) (a : DataAccess) : Prop where
  read   : a.acc = .load → physRead s1 e pa a.size = none
  write  : a.acc = .store → ∀ v, physWrite s1 e pa a.size v = none
  atomic : a.atomic = true → e.kind ≠ .memory

/-- Each of the operations takes the access fault, in the state that the translation left. -/
theorem Performs.refused_by_device {s s1 : State} {a : DataAccess} {o : StepOutcome} {pa : Word} {e : PmaEntry}
    (h : Performs s a o) (hal : a.va.toNat % a.size = 0) (ht : translate s a.va a.acc = .ok pa s1)
    (he : findPma s1.cfg.pma pa.toNat a.size = some e) (hno : DeviceRefuses s1 e pa.toNat a) :
    o = .next (s1.takeException a.acc.accessFault a.va) := by
  obtain ⟨hread, hwrite, hatomic⟩ := hno
  cases h with
  | loadX len n ext rd va => rw [Machine.loadX, memRead_of_none hal ht he (hread rfl)]; rfl
  | loadF len n box rd va => rw [Machine.loadF, memRead_of_none hal ht he (hread rfl)]; rfl
  | store len n va v => rw [storeMemory, memWrite_of_none hal ht he (hwrite rfl v)]; rfl
  | reserve n ext rd rs1 => rw [loadReserved, atomicAddr_of_device hal ht he (hatomic rfl)]; rfl
  | conditional n rd rs1 rs2 => rw [storeConditional, atomicAddr_of_device hal ht he (hatomic rfl)]; rfl
  | amo n ext f rd rs1 rs2 => rw [Machine.amo, atomicAddr_of_device hal ht he (hatomic rfl)]; rfl

/-- A device answers accesses of eight bytes only. -/
theorem deviceRefuses_width {s1 : State} {e : PmaEntry} {pa : Nat} {a : DataAccess} (hk : e.kind ≠ .memory) (hn : a.size ≠ 8) :
    DeviceRefuses s1 e pa a := by
  refine ⟨fun _ => ?_, fun _ v => ?_, fun _ => hk⟩
  · unfold physRead
    split
    next hm => exact absurd hm hk
    · exact if_pos hn
    · exact if_pos hn
  · unfold physWrite
    split
    next hm => exact absurd hm hk
    · exact if_pos hn
    · exact if_pos hn

/-! ## The registers that a load reads (60_exceptions R858, R864) -/

theorem physRead_clint {s : State} {e : PmaEntry} (hk : e.kind = .clint) (a : Nat) :
    physRead s e a 8 =
      if a - e.start = 0 then some (if s.mip.getLsbD 3 then 1#64 else 0#64)
      else if a - e.start = 0x4000 then some s.mtimecmp
      else if a - e.start = 0xBFF8 then some (BitVec.ofNat 64 (s.mcycle.toNat / s.cfg.rtcFreqDiv))
      else none := by
  rw [physRead, hk]
  rfl

theorem physRead_htif {s : State} {e : PmaEntry} (hk : e.kind = .htif) (a : Nat) :
    physRead s e a 8 = if a - e.start = 0 then some s.tohost else if a - e.start = 8 then some s.fromhost else none := by
  rw [physRead, hk]
  rfl

/-! ## Loads from a device -/

section
variable {i : Instr} {s s1 : State} {len va v : Word} {n : Nat} {rd : Reg}

theorem loadsX_of_memRead (h : exec i s = loadX len n id rd va s) (hw : OnlyWalk s s1) (hok : memRead s va n = .ok v s1) :
    LoadsX i s s1 len rd v := by
  obtain ⟨hx, hret, honly⟩ := setX_retire_of_onlyWalk hw rd v len
  exact ⟨_, h.trans (by rw [loadX, hok]; rfl), hx, hret, fun a => by simp, honly⟩

theorem loadsF_of_memRead (h : exec i s = loadF len n id rd va s) (hw : OnlyWalk s s1) (hok : memRead s va n = .ok v s1) :
    LoadsF i s s1 len rd v := by
  have hget (q : Reg) : ((s1.setF rd v).retire len).getF q = if q = rd then v else s.getF q := by
    rw [getF_retire, getF_setF, hw.getF]
  refine ⟨_, h.trans (by rw [loadF, hok]; rfl), ⟨(hget rd).trans (if_pos rfl), fun q hq => (hget q).trans (if_neg hq)⟩, ?_,
    ⟨fs_of_dirty _, fun k h13 h14 => ?_⟩, ⟨by simp [hw.pc], by simp [hw.minstret]⟩, fun q => ?_, fun a => rfl, rfl⟩
  · simp [FlagsAccrue, State.fflags, State.frm, hw.fcsr]
  · rw [← hw.mstatus]
    exact dirty_elsewhere _ k h13 h14
  · rw [getX_retire, getX_setF, hw.getX]

end

/-- The load of eight bytes at `va` by instruction `i`, which completes as `completes` says of the value: what the devices
answer. -/
def ReadsDevices (s s1 : State) (va pa : Word) (e : PmaEntry) (i : Instr) (completes : Word → Prop) : Prop :=
  let off := pa.toNat - e.start
  (va.toNat % 8 ≠ 0 → Traps i s .loadAddressMisaligned va) ∧
  (va.toNat % 8 = 0 → translate s va .load = .ok pa s1 → findPma s1.cfg.pma pa.toNat 8 = some e → e.r = true →
    (e.kind = .clint →
      (off = 0 → completes (if s1.mip.getLsbD 3 then 1#64 else 0#64)) ∧
      (off = 0x4000 → completes s1.mtimecmp) ∧
      (off = 0xBFF8 → completes (BitVec.ofNat 64 (s1.mcycle.toNat / s1.cfg.rtcFreqDiv))) ∧
      (off ≠ 0 → off ≠ 0x4000 → off ≠ 0xBFF8 → exec i s = .next (s1.takeException .loadAccessFault va))) ∧
    (e.kind = .htif →
      (off = 0 → completes s1.tohost) ∧
      (off = 8 → completes s1.fromhost) ∧
      (off ≠ 0 → off ≠ 8 → exec i s = .next (s1.takeException .loadAccessFault va))))

/-- It is enough that the load completes with what its read answers. -/
theorem readsDevices_of {s s1 : State} {va pa : Word} {e : PmaEntry} {i : Instr} {completes : Word → Prop}
    (ha : accessOf i s = some ⟨.load, va, 8, false⟩) (hfp : needsFp i = true → s.fs ≠ 0#2)
    (hok : OnlyWalk s s1 → ∀ v, memRead s va 8 = .ok v s1 → completes v) : ReadsDevices s s1 va pa e i completes := by
  refine ⟨(exec_performs ha hfp).misaligned, fun hal ht he hr => ?_⟩
  have hread {v : Word} (hv : physRead s1 e pa.toNat 8 = some v) : completes v :=
    hok (translate_onlyWalk ht) v (memRead_of_found hal ht he hr hv)
  have hrefuse (hv : physRead s1 e pa.toNat 8 = none) : exec i s = .next (s1.takeException .loadAccessFault va) :=
    (exec_performs ha hfp).refused_by_device hal ht he ⟨fun _ => hv, nofun, nofun⟩
  refine ⟨fun hk => ⟨fun h => hread ?_, fun h => hread ?_, fun h => hread ?_, fun h h' h'' => hrefuse ?_⟩,
    fun hk => ⟨fun h => hread ?_, fun h => hread ?_, fun h h' => hrefuse ?_⟩⟩
  · rw [physRead_clint hk, if_pos h]
  · rw [physRead_clint hk, h, if_neg (by decide), if_pos rfl]
  · rw [physRead_clint hk, h, if_neg (by decide), if_neg (by decide), if_pos rfl]
  · rw [physRead_clint hk, if_neg h, if_neg h', if_neg h'']
  · rw [physRead_htif hk, if_pos h]
  · rw [physRead_htif hk, h, if_neg (by decide), if_pos rfl]
  · rw [physRead_htif hk, if_neg h, if_neg h']

/-- Settles O20: each of the six loads completes with what its read answers; a refused access faults. -/
theorem deviceLoads : Obligations.DeviceLoads := by
  intro s s1 va pa e
  refine ⟨?base, ?compressed, ?stack, fun i n atomic ha hfp hn hal ht he hk =>
    (exec_performs ha hfp).refused_by_device hal ht he (deviceRefuses_width hk hn)⟩
  case base =>
    rintro rd rs1 imm rfl
    exact ⟨readsDevices_of rfl nofun fun hw _ => loadsX_of_memRead rfl hw,
      fun hfs => readsDevices_of rfl (fun _ => hfs) fun hw _ => loadsF_of_memRead (requireFp_on hfs _) hw⟩
  case compressed =>
    rintro q p u rfl
    exact ⟨readsDevices_of rfl nofun fun hw _ => loadsX_of_memRead rfl hw,
      fun hfs => readsDevices_of rfl (fun _ => hfs) fun hw _ => loadsF_of_memRead (requireFp_on hfs _) hw⟩
  case stack =>
    rintro rd w rfl
    exact ⟨readsDevices_of rfl nofun fun hw _ => loadsX_of_memRead rfl hw,
      fun hfs => readsDevices_of rfl (fun _ => hfs) fun hw _ => loadsF_of_memRead (requireFp_on hfs _) hw⟩

/-! ## The commands of the HTIF (60_exceptions R865 to R870) -/

section
variable {s : State} {v : Word}

theorem htifEnabled_zero (mask : Word) : htifEnabled mask 0#8 = mask.getLsbD 0 := by simp [htifEnabled]

theorem htifEnabled_one (mask : Word) : htifEnabled mask 1#8 = mask.getLsbD 1 := by simp [htifEnabled]

theorem htifCommand_halt
    (h : slice v 56 8 = 0#8 ∧ slice v 48 8 = 0#8 ∧ s.cfg.ihalt.getLsbD 0 = true ∧ v.getLsbD 0 = true) :
    s.htifCommand v = { s with tohost := v, halted := true } := by
  obtain ⟨hdev, hcmd, hmask, hv⟩ := h
  exact if_pos ⟨hdev, hcmd, by rw [hcmd, htifEnabled_zero]; exact hmask, hv⟩

theorem htifCommand_putchar (h : slice v 56 8 = 1#8 ∧ slice v 48 8 = 1#8 ∧ s.cfg.iconsole.getLsbD 1 = true) :
    s.htifCommand v =
      { s with tohost := 0#64, fromhost := 0x0101000000000000#64, consoleOut := s.consoleOut ++ [slice v 0 8] } := by
  obtain ⟨hdev, hcmd, hmask⟩ := h
  simp [State.htifCommand, State.htifPutchar, hdev, hcmd, htifEnabled_one, hmask, -BitVec.getLsbD_eq_getElem]

theorem htifCommand_getchar (h : slice v 56 8 = 1#8 ∧ slice v 48 8 = 0#8 ∧ s.cfg.iconsole.getLsbD 0 = true) :
    s.htifCommand v = { s with tohost := 0#64 } := by
  obtain ⟨hdev, hcmd, hmask⟩ := h
  simp [State.htifCommand, State.htifGetchar, hdev, hcmd, htifEnabled_zero, hmask, -BitVec.getLsbD_eq_getElem]

theorem htifCommand_yield_automatic (h : slice v 56 8 = 2#8 ∧ slice v 48 8 = 0#8 ∧ s.cfg.iyield.getLsbD 0 = true) :
    s.htifCommand v = { s with tohost := v, yielded := true, fromhost := 0x0200000000000000#64 } := by
  obtain ⟨hdev, hcmd, hmask⟩ := h
  simp [State.htifCommand, State.htifYield, hdev, hcmd, htifEnabled_zero, hmask, -BitVec.getLsbD_eq_getElem]

theorem htifCommand_yield_manual (h : slice v 56 8 = 2#8 ∧ slice v 48 8 = 1#8 ∧ s.cfg.iyield.getLsbD 1 = true) :
    s.htifCommand v = { s with tohost := v, yielded := true, fromhost := 0x0201000000000000#64 } := by
  obtain ⟨hdev, hcmd, hmask⟩ := h
  simp [State.htifCommand, State.htifYield, hdev, hcmd, htifEnabled_one, hmask, -BitVec.getLsbD_eq_getElem]

/-- A command that is not enabled is only acknowledged. -/
theorem htifCommand_other
    (hhalt : ¬(slice v 56 8 = 0#8 ∧ slice v 48 8 = 0#8 ∧ s.cfg.ihalt.getLsbD 0 = true ∧ v.getLsbD 0 = true))
    (hput : ¬(slice v 56 8 = 1#8 ∧ slice v 48 8 = 1#8 ∧ s.cfg.iconsole.getLsbD 1 = true))
    (hget : ¬(slice v 56 8 = 1#8 ∧ slice v 48 8 = 0#8 ∧ s.cfg.iconsole.getLsbD 0 = true))
    (hauto : ¬(slice v 56 8 = 2#8 ∧ slice v 48 8 = 0#8 ∧ s.cfg.iyield.getLsbD 0 = true))
    (hmanual : ¬(slice v 56 8 = 2#8 ∧ slice v 48 8 = 1#8 ∧ s.cfg.iyield.getLsbD 1 = true)) :
    s.htifCommand v = { s with tohost := 0#64 } := by
  unfold State.htifCommand
  dsimp only
  rw [if_neg, if_neg, if_neg, if_neg]
  · rintro ⟨hdev, hcmd, hmask⟩
    obtain h0 | h1 : slice v 48 8 = 0#8 ∨ slice v 48 8 = 1#8 := by
      generalize slice v 48 8 = c at hcmd
      revert c
      decide
    · rw [h0, htifEnabled_zero] at hmask
      exact hauto ⟨hdev, h0, hmask⟩
    · rw [h1, htifEnabled_one] at hmask
      exact hmanual ⟨hdev, h1, hmask⟩
  · rintro ⟨hdev, hcmd, hmask⟩
    rw [hcmd, htifEnabled_zero] at hmask
    exact hget ⟨hdev, hcmd, hmask⟩
  · rintro ⟨hdev, hcmd, hmask⟩
    rw [hcmd, htifEnabled_one] at hmask
    exact hput ⟨hdev, hcmd, hmask⟩
  · rintro ⟨hdev, hcmd, hmask, hv⟩
    rw [hcmd, htifEnabled_zero] at hmask
    exact hhalt ⟨hdev, hcmd, hmask, hv⟩

end

/-! ## The registers that a store writes (60_exceptions R859 to R862, R865) -/

theorem physWrite_clint {s : State} {e : PmaEntry} (hk : e.kind = .clint) (a : Nat) (v : Word) :
    physWrite s e a 8 v =
      if a - e.start = 0 then some { s with mip := setBit s.mip 3 (v.getLsbD 0) }
      else if a - e.start = 0x4000 then some (s.setMtimecmp v)
      else if a - e.start = 0xBFF8 then some s
      else none := by
  rw [physWrite, hk]
  rfl

theorem physWrite_htif {s : State} {e : PmaEntry} (hk : e.kind = .htif) (a : Nat) (v : Word) :
    physWrite s e a 8 v =
      if a - e.start = 8 then some { s with fromhost := v, fromhostPending := false }
      else if a - e.start = 0 then some (s.htifCommand v)
      else none := by
  rw [physWrite, hk]
  rfl

theorem getLsbD_setMtimecmp_mip (s : State) (v : Word) (k : Nat) :
    (s.setMtimecmp v).mip.getLsbD k =
      if k = 7 then decide (v.toNat ≤ (BitVec.ofNat 64 (s.mcycle.toNat / s.cfg.rtcFreqDiv)).toNat) else s.mip.getLsbD k :=
  getLsbD_setBit s.mip (by decide) _ k

/-! ## Stores to a device -/

/-- The store completes, having made `t` of the state. -/
def CompletesStore (i : Instr) (s : State) (len : Word) (t : State) : Prop :=
  exec i s = .next { t with pc := s.pc + len, minstret := s.minstret + 1#64 }

/-- The store of `v` by instruction `i` at the eight bytes from `va` on: what the devices do. -/
def WritesDevices (s s1 : State) (va pa : Word) (e : PmaEntry) (i : Instr) (len v : Word) : Prop :=
  let off := pa.toNat - e.start
  let after := CompletesStore i s len
  let dev := slice v 56 8
  let cmd := slice v 48 8
  va.toNat % 8 = 0 → translate s va .store = .ok pa s1 → findPma s1.cfg.pma pa.toNat 8 = some e → e.w = true →
  (e.kind = .clint →
    (off = 0 → ∃ m : Word, (∀ k, m.getLsbD k = if k = 3 then v.getLsbD 0 else s1.mip.getLsbD k) ∧ after { s1 with mip := m }) ∧
    (off = 0x4000 → ∃ m : Word,
      (∀ k, m.getLsbD k = if k = 7 then decide (v.toNat ≤ (BitVec.ofNat 64 (s1.mcycle.toNat / s1.cfg.rtcFreqDiv)).toNat)
                          else s1.mip.getLsbD k) ∧ after { s1 with mtimecmp := v, mip := m }) ∧
    (off = 0xBFF8 → after s1) ∧
    (off ≠ 0 → off ≠ 0x4000 → off ≠ 0xBFF8 → exec i s = .next (s1.takeException .storeAmoAccessFault va))) ∧
  (e.kind = .htif →
    (off = 8 → after { s1 with fromhost := v, fromhostPending := false }) ∧
    (off ≠ 0 → off ≠ 8 → exec i s = .next (s1.takeException .storeAmoAccessFault va)) ∧
    (off = 0 →
      (dev = 0#8 ∧ cmd = 0#8 ∧ s1.cfg.ihalt.getLsbD 0 = true ∧ v.getLsbD 0 = true → after { s1 with tohost := v, halted := true }) ∧
      (dev = 1#8 ∧ cmd = 1#8 ∧ s1.cfg.iconsole.getLsbD 1 = true →
        after { s1 with tohost := 0#64, fromhost := 0x0101000000000000#64, consoleOut := s1.consoleOut ++ [slice v 0 8] }) ∧
      (dev = 1#8 ∧ cmd = 0#8 ∧ s1.cfg.iconsole.getLsbD 0 = true → after { s1 with tohost := 0#64 }) ∧
      (dev = 2#8 ∧ cmd = 0#8 ∧ s1.cfg.iyield.getLsbD 0 = true →
        after { s1 with tohost := v, yielded := true, fromhost := 0x0200000000000000#64 }) ∧
      (dev = 2#8 ∧ cmd = 1#8 ∧ s1.cfg.iyield.getLsbD 1 = true →
        after { s1 with tohost := v, yielded := true, fromhost := 0x0201000000000000#64 }) ∧
      (¬(dev = 0#8 ∧ cmd = 0#8 ∧ s1.cfg.ihalt.getLsbD 0 = true ∧ v.getLsbD 0 = true) →
        ¬(dev = 1#8 ∧ cmd = 1#8 ∧ s1.cfg.iconsole.getLsbD 1 = true) →
        ¬(dev = 1#8 ∧ cmd = 0#8 ∧ s1.cfg.iconsole.getLsbD 0 = true) →
        ¬(dev = 2#8 ∧ cmd = 0#8 ∧ s1.cfg.iyield.getLsbD 0 = true) →
        ¬(dev = 2#8 ∧ cmd = 1#8 ∧ s1.cfg.iyield.getLsbD 1 = true) → after { s1 with tohost := 0#64 })))

theorem writesDevices_of {s s1 : State} {va pa : Word} {e : PmaEntry} {i : Instr} {len v : Word}
    (h : exec i s = storeMemory len 8 va v s) : WritesDevices s s1 va pa e i len v := by
  intro hal ht he hw
  have hwrite {t : State} (hp : physWrite s1 e pa.toNat 8 v = some t) : CompletesStore i s len t := by
    have hframe := storeFrame_of_translated ht hp
    have hpc : t.pc = s.pc := by rw [hframe]
    calc exec i s = .next (t.retire len) := by rw [h, storeMemory, memWrite_of_found hal ht he hw hp]; rfl
      _ = _ := by rw [State.retire, State.retireTo, hpc, hframe.minstret]
  have hrefuse (hp : physWrite s1 e pa.toNat 8 v = none) : exec i s = .next (s1.takeException .storeAmoAccessFault va) := by
    rw [h, storeMemory, memWrite_of_none hal ht he hp]
    rfl
  refine ⟨fun hk => ⟨fun h0 => ⟨_, getLsbD_setBit s1.mip (by decide) _, hwrite ?_⟩,
      fun h0 => ⟨_, getLsbD_setMtimecmp_mip s1 v, hwrite ?_⟩, fun h0 => hwrite ?_, fun h0 h1 h2 => hrefuse ?_⟩,
    fun hk => ⟨fun h8 => hwrite ?_, fun h0 h8 => hrefuse ?_, fun h0 => ?command⟩⟩
  case command =>
    have hcommand : CompletesStore i s len (s1.htifCommand v) := hwrite (by
      rw [physWrite_htif hk, if_neg (h0.trans_ne (by decide)), if_pos h0])
    exact ⟨fun hc => htifCommand_halt hc ▸ hcommand, fun hc => htifCommand_putchar hc ▸ hcommand,
      fun hc => htifCommand_getchar hc ▸ hcommand, fun hc => htifCommand_yield_automatic hc ▸ hcommand,
      fun hc => htifCommand_yield_manual hc ▸ hcommand,
      fun hhalt hput hget hauto hmanual => htifCommand_other hhalt hput hget hauto hmanual ▸ hcommand⟩
  · rw [physWrite_clint hk, if_pos h0]
  · rw [physWrite_clint hk, if_neg (h0.trans_ne (by decide)), if_pos h0]
    rfl
  · rw [physWrite_clint hk, if_neg (h0.trans_ne (by decide)), if_neg (h0.trans_ne (by decide)), if_pos h0]
  · rw [physWrite_clint hk, if_neg h0, if_neg h1, if_neg h2]
  · rw [physWrite_htif hk, if_pos h8]
  · rw [physWrite_htif hk, if_neg h8, if_neg h0]

/-- Settles O21: each of the six stores does what its write does; a refused access faults. -/
theorem deviceWrites : Obligations.DeviceWrites := by
  intro s s1 va pa e
  refine ⟨?base, ?compressed, ?stack, fun i n atomic ha hfp hn hal ht he hk =>
    (exec_performs ha hfp).refused_by_device hal ht he (deviceRefuses_width hk hn)⟩
  case base =>
    rintro rs1 rs2 imm rfl
    exact ⟨writesDevices_of rfl, fun hfs => writesDevices_of (requireFp_on hfs _)⟩
  case compressed =>
    rintro q p u rfl
    exact ⟨writesDevices_of rfl, fun hfs => writesDevices_of (requireFp_on hfs _)⟩
  case stack =>
    rintro rs2 w rfl
    exact ⟨writesDevices_of rfl, fun hfs => writesDevices_of (requireFp_on hfs _)⟩

end Sys2Proof.Machine
end

section
/-! Family 45_f_single: comparison, minimum, maximum and classification (45_f_single R574, R575, R579 to R582). -/

namespace Sys2Proof.Machine

open Sys2Proof

/-! ## The order of the values -/

/-- Scaling two finite numbers to a common exponent keeps their order. -/
theorem scaled_lt_scaled_iff (n1 : Bool) (m1 : Nat) (e1 : Int) (n2 : Bool) (m2 : Nat) (e2 : Int) :
    scaled n1 m1 e1 (min e1 e2) < scaled n2 m2 e2 (min e1 e2) ↔ signedValue n1 m1 e1 < signedValue n2 m2 e2 := by
  rw [← scaled_mul_zpow n1 m1 (min_le_left e1 e2), ← scaled_mul_zpow n2 m2 (min_le_right e1 e2),
    mul_lt_mul_iff_left₀ (zpow_pos two_pos _), Int.cast_lt]

section
variable {u v : FVal}

theorem FVal.isNan_of_extended {x : WithBot (WithTop ℚ)} (h : u.extended = some x) : u.isNan = false := by
  cases u with
  | nan s => cases h
  | inf n => rfl
  | finite n m e => rfl

theorem FVal.isSnan_of_not_isNan (h : u.isNan = false) : u.isSnan = false := by
  cases u with
  | nan s => cases h
  | inf n => rfl
  | finite n m e => rfl

/-- The order of R580 is the order of the extended numbers. -/
theorem FVal.lt_iff {x y : WithBot (WithTop ℚ)} (hu : u.extended = some x) (hv : v.extended = some y) :
    u.lt v = true ↔ x < y := by
  cases u with
  | nan s => cases hu
  | inf n =>
    cases v with
    | nan s => cases hv
    | inf n' =>
      cases n <;> cases n' <;> simp only [FVal.extended, Option.some.injEq] at hu hv <;> subst hu hv <;> simp [FVal.lt]
    | finite n' m e =>
      cases n <;> simp only [FVal.extended, Option.some.injEq] at hu hv <;> subst hu hv <;> simp [FVal.lt]
  | finite n m e =>
    cases v with
    | nan s => cases hv
    | inf n' =>
      cases n' <;> simp only [FVal.extended, Option.some.injEq] at hu hv <;> subst hu hv <;>
        simp [FVal.lt, -WithBot.coe_top]
    | finite n' m' e' =>
      simp only [FVal.extended, Option.some.injEq] at hu hv
      subst hu hv
      rw [FVal.lt, decide_eq_true_iff, scaled_lt_scaled_iff, WithBot.coe_lt_coe, WithTop.coe_lt_coe]

/-- The equality of R579 is that of the extended numbers. -/
theorem FVal.eq_iff {x y : WithBot (WithTop ℚ)} (hu : u.extended = some x) (hv : v.extended = some y) :
    u.eq v = true ↔ x = y := by
  have huv : u.lt v = false ↔ ¬x < y := by rw [← FVal.lt_iff hu hv, Bool.not_eq_true]
  have hvu : v.lt u = false ↔ ¬y < x := by rw [← FVal.lt_iff hv hu, Bool.not_eq_true]
  simp only [FVal.eq, FVal.isNan_of_extended hu, FVal.isNan_of_extended hv, Bool.not_false, Bool.true_and,
    Bool.and_eq_true, Bool.not_eq_true', huv, hvu, not_lt]
  exact ⟨fun ⟨hyx, hxy⟩ => le_antisymm hxy hyx, fun h => ⟨h.ge, h.le⟩⟩

theorem FVal.lt_of_isNan (h : u.isNan = true ∨ v.isNan = true) : u.lt v = false := by
  rcases nan_cases h with ⟨t, rfl⟩ | ⟨n, t, rfl, rfl⟩ | ⟨n, k, e, t, rfl, rfl⟩ <;> rfl

theorem FVal.eq_of_isNan (h : u.isNan = true ∨ v.isNan = true) : u.eq v = false := by
  rcases h with h | h <;> simp [FVal.eq, h]

/-! ## Their flags -/

theorem signalingFlags_of_isNan (h : u.isNan = true ∨ v.isNan = true) : signalingFlags u v = 0x10#5 := by
  rw [signalingFlags, if_pos (Bool.or_eq_true_iff.2 h)]
  rfl

theorem signalingFlags_of_not_isNan (hu : u.isNan = false) (hv : v.isNan = false) : signalingFlags u v = 0#5 := by
  rw [signalingFlags, hu, hv]
  rfl

theorem quietFlags_of_not_isNan (hu : u.isNan = false) (hv : v.isNan = false) : quietFlags u v = 0#5 := by
  rw [quietFlags, FVal.isSnan_of_not_isNan hu, FVal.isSnan_of_not_isNan hv]
  rfl

theorem quietFlags_comm (u v : FVal) : quietFlags u v = quietFlags v u := by
  rw [quietFlags, quietFlags, Bool.or_comm]

end

/-! ## Comparison, minimum and maximum of numbers -/

section
variable {fmt : FloatFmt} {a b : Word}

theorem minMax_of_not_isNan (ha : (unpack fmt a).isNan = false) (hb : (unpack fmt b).isNan = false) (pick : Word) :
    minMax fmt a b pick = (pick, 0#5) := by
  simp [minMax, ha, hb, quietFlags_of_not_isNan]

/-- The comparisons and the flags for two numbers (45_f_single R579 to R581). -/
theorem compare_of_extended {x y : WithBot (WithTop ℚ)} (ha : (unpack fmt a).extended = some x)
    (hb : (unpack fmt b).extended = some y) :
    flt fmt a b = (if x < y then 1#64 else 0#64, 0#5) ∧ fle fmt a b = (if x ≤ y then 1#64 else 0#64, 0#5) ∧
      feq fmt a b = (if x = y then 1#64 else 0#64, 0#5) := by
  have hna := FVal.isNan_of_extended ha
  have hnb := FVal.isNan_of_extended hb
  simp only [flt, fle, feq, signalingFlags_of_not_isNan hna hnb, quietFlags_of_not_isNan hna hnb, boolWord,
    Bool.or_eq_true, FVal.lt_iff ha hb, FVal.eq_iff ha hb, le_iff_lt_or_eq, and_self]

theorem precedes_of_lt {x y : WithBot (WithTop ℚ)} (ha : (unpack fmt a).extended = some x)
    (hb : (unpack fmt b).extended = some y) (h : x < y) : precedes fmt a b = true := by
  rw [precedes, (FVal.lt_iff ha hb).2 h, Bool.true_or]

theorem precedes_of_gt {x y : WithBot (WithTop ℚ)} (ha : (unpack fmt a).extended = some x)
    (hb : (unpack fmt b).extended = some y) (h : y < x) : precedes fmt a b = false := by
  rw [precedes, Bool.eq_false_iff.2 (mt (FVal.lt_iff ha hb).1 h.not_gt),
    Bool.eq_false_iff.2 (mt (FVal.eq_iff ha hb).1 h.ne'), Bool.false_and, Bool.false_and, Bool.or_false]

/-- The operand that precedes is the minimum, the other one the maximum (45_f_single R574, R575). -/
theorem fmin_fmax_of_precedes (ha : (unpack fmt a).isNan = false) (hb : (unpack fmt b).isNan = false)
    (hab : precedes fmt a b = true) (hba : precedes fmt b a = false) :
    (fmin fmt a b = (a, 0#5) ∧ fmax fmt a b = (b, 0#5)) ∧ fmin fmt b a = (a, 0#5) ∧ fmax fmt b a = (b, 0#5) := by
  simp [fmin, fmax, minMax_of_not_isNan, ha, hb, hab, hba]

theorem fmin_fmax_of_lt {x y : WithBot (WithTop ℚ)} (ha : (unpack fmt a).extended = some x)
    (hb : (unpack fmt b).extended = some y) (h : x < y) :
    (fmin fmt a b = (a, 0#5) ∧ fmax fmt a b = (b, 0#5)) ∧ fmin fmt b a = (a, 0#5) ∧ fmax fmt b a = (b, 0#5) :=
  fmin_fmax_of_precedes (FVal.isNan_of_extended ha) (FVal.isNan_of_extended hb) (precedes_of_lt ha hb h)
    (precedes_of_gt hb ha h)

theorem minMax_operand (ha : (unpack fmt a).isNan = false) (hb : (unpack fmt b).isNan = false) (p : Bool) :
    minMax fmt a b (if p then b else a) = (a, 0#5) ∨ minMax fmt a b (if p then b else a) = (b, 0#5) := by
  rw [minMax_of_not_isNan ha hb]
  cases p
  · exact .inl rfl
  · exact .inr rfl

/-! ## Signed zeros -/

theorem getLsbD_signPos_of_finite {n : Bool} {m : Nat} {e : Int} (h : unpack fmt a = .finite n m e) :
    a.getLsbD fmt.signPos = n := by
  simp only [unpack] at h
  split at h
  · split at h <;> cases h
  · split at h <;> cases h <;> rfl

theorem FVal.lt_zero_zero (n n' : Bool) (e e' : Int) : (FVal.finite n 0 e).lt (.finite n' 0 e') = false := by
  simp [FVal.lt, scaled_zero]

theorem FVal.eq_zero_zero (n n' : Bool) (e e' : Int) : (FVal.finite n 0 e).eq (.finite n' 0 e') = true := by
  simp [FVal.eq, FVal.isNan, FVal.lt_zero_zero]

/-- A zero precedes another just when it is negative and the other positive (45_f_single R574). -/
theorem precedes_zero {n n' : Bool} {e e' : Int} (ha : unpack fmt a = .finite n 0 e) (hb : unpack fmt b = .finite n' 0 e') :
    precedes fmt a b = (n && !n') := by
  rw [precedes, getLsbD_signPos_of_finite ha, getLsbD_signPos_of_finite hb, ha, hb, FVal.lt_zero_zero, FVal.eq_zero_zero,
    Bool.false_or, Bool.true_and]

theorem fmin_fmax_zero {e e' : Int} (ha : unpack fmt a = .finite true 0 e) (hb : unpack fmt b = .finite false 0 e') :
    (fmin fmt a b = (a, 0#5) ∧ fmax fmt a b = (b, 0#5)) ∧ fmin fmt b a = (a, 0#5) ∧ fmax fmt b a = (b, 0#5) :=
  fmin_fmax_of_precedes (by rw [ha]; rfl) (by rw [hb]; rfl) (precedes_zero ha hb) (precedes_zero hb ha)

/-! ## Operands that are not numbers -/

theorem compare_of_isNan (h : (unpack fmt a).isNan = true ∨ (unpack fmt b).isNan = true) :
    flt fmt a b = (0#64, 0x10#5) ∧ fle fmt a b = (0#64, 0x10#5) ∧
      feq fmt a b = (0#64, quietFlags (unpack fmt a) (unpack fmt b)) := by
  rw [flt, fle, feq, FVal.lt_of_isNan h, FVal.eq_of_isNan h, signalingFlags_of_isNan h]
  exact ⟨rfl, rfl, rfl⟩

theorem minMax_of_isNan_left (ha : (unpack fmt a).isNan = true) (hb : (unpack fmt b).isNan = false) (pick : Word) :
    minMax fmt a b pick = (b, quietFlags (unpack fmt a) (unpack fmt b)) := by
  simp [minMax, ha, hb]

theorem minMax_of_isNan_right (ha : (unpack fmt a).isNan = true) (hb : (unpack fmt b).isNan = false) (pick : Word) :
    minMax fmt b a pick = (b, quietFlags (unpack fmt a) (unpack fmt b)) := by
  simp [minMax, ha, hb, quietFlags_comm (unpack fmt b)]

theorem minMax_of_isNan_both (ha : (unpack fmt a).isNan = true) (hb : (unpack fmt b).isNan = true) (pick : Word) :
    minMax fmt a b pick = (fmt.canonicalNan, quietFlags (unpack fmt a) (unpack fmt b)) := by
  simp [minMax, ha, hb]

/-! ## Classification -/

theorem fclass_finite {n : Bool} {k : Nat} {e : Int} (h : unpack fmt a = .finite n k e) :
    (k = 0 → fclass fmt a = if n then 0x008#64 else 0x010#64) ∧
      (k ≠ 0 → k < 2 ^ fmt.manBits → fclass fmt a = if n then 0x004#64 else 0x020#64) ∧
      (2 ^ fmt.manBits ≤ k → fclass fmt a = if n then 0x002#64 else 0x040#64) := by
  rw [fclass, h]
  refine ⟨fun h0 => if_pos h0, fun h0 hlt => ?_, fun hle => ?_⟩
  · exact (if_neg h0).trans (if_pos hlt)
  · have h0 : k ≠ 0 := (lt_of_lt_of_le (Nat.two_pow_pos _) hle).ne'
    exact (if_neg h0).trans (if_neg (not_lt.2 hle))

end

/-- Settles O38: the comparison of values is the order of the extended numbers; minimum and maximum follow from which operand
precedes, the NaN operands and the classes from the cases of the definitions. -/
theorem comparisonsOrderNumbers : Obligations.ComparisonsOrderNumbers := by
  intro fmt a b
  refine ⟨fun x y ha hb => ?numbers, fun e e' ha hb => ?zeros, compare_of_isNan, ⟨fun ha hb => ?oneNan, fun ha hb => ?bothNan⟩,
    fun h => ?_, fun h => ?_, fun h => ?_, fun h => ?_, fun n k e h => fclass_finite h⟩
  case numbers =>
    obtain ⟨hlt, hle, heq⟩ := compare_of_extended ha hb
    have hna := FVal.isNan_of_extended ha
    have hnb := FVal.isNan_of_extended hb
    exact ⟨hlt, hle, heq, fun h => (fmin_fmax_of_lt ha hb h).1, fun h => (fmin_fmax_of_lt hb ha h).2,
      fun _ => ⟨minMax_operand hna hnb _, minMax_operand hna hnb _⟩⟩
  case zeros =>
    obtain ⟨⟨hmin, hmax⟩, hmin', hmax'⟩ := fmin_fmax_zero ha hb
    exact ⟨hmin, hmin', hmax, hmax'⟩
  case oneNan =>
    exact ⟨minMax_of_isNan_left ha hb _, minMax_of_isNan_left ha hb _, minMax_of_isNan_right ha hb _,
      minMax_of_isNan_right ha hb _⟩
  case bothNan => exact ⟨minMax_of_isNan_both ha hb _, minMax_of_isNan_both ha hb _⟩
  all_goals rw [fclass, h]

end Sys2Proof.Machine
end
